-- ==== Sys2Proof/Word.lean ====
section
/-! DEFINITION. The widths of the core's values (00_scope R7, 30_encoding R61). All are unsigned. -/

namespace Sys2Proof

/-- A register, a memory byte, a timer, the field KK. -/
abbrev Byte := BitVec 8

/-- An instruction word, `I`, `pc`, a stack slot. -/
abbrev Word := BitVec 16

/-- The field NNN: an address of 12 bits (30_encoding R63). -/
abbrev Addr12 := BitVec 12

/-- One hexadecimal digit of an instruction word; the row count N of DXYN. -/
abbrev Nibble := BitVec 4

/-- The index of a V register, 0 to 15: every value of the fields X and Y is a valid index (30_encoding R63). -/
abbrev RegIdx := Fin 16

end Sys2Proof
end

