-- ==== Sys2Proof/Machine/Font.lean ====
section
/-! DEFINITION. The default of the parameter FONT (10_state R36). PRESUMED: the spec marks the bytes as general knowledge, not in
its source (D17, log entry 2). -/

namespace Sys2Proof.Machine

/-- The glyphs of the digits 0 to 7, five bytes each (10_state R36). -/
def font0to7 : List Byte :=
  [0xF0, 0x90, 0x90, 0x90, 0xF0] ++
  [0x20, 0x60, 0x20, 0x20, 0x70] ++
  [0xF0, 0x10, 0xF0, 0x80, 0xF0] ++
  [0xF0, 0x10, 0xF0, 0x10, 0xF0] ++
  [0x90, 0x90, 0xF0, 0x10, 0x10] ++
  [0xF0, 0x80, 0xF0, 0x10, 0xF0] ++
  [0xF0, 0x80, 0xF0, 0x90, 0xF0] ++
  [0xF0, 0x10, 0x20, 0x40, 0x40]

/-- The glyphs of the digits 8 to F, five bytes each (10_state R36). -/
def font8toF : List Byte :=
  [0xF0, 0x90, 0xF0, 0x90, 0xF0] ++
  [0xF0, 0x90, 0xF0, 0x10, 0xF0] ++
  [0xF0, 0x90, 0xF0, 0x90, 0x90] ++
  [0xE0, 0x90, 0xE0, 0x90, 0xE0] ++
  [0xF0, 0x80, 0x80, 0x80, 0xF0] ++
  [0xE0, 0x90, 0x90, 0x90, 0xE0] ++
  [0xF0, 0x80, 0xF0, 0x80, 0xF0] ++
  [0xF0, 0x80, 0xF0, 0x80, 0x80]

/-- The 80 bytes of the default font, the glyph of digit g at 5g to 5g + 4 (10_state R36). -/
def fontDefault : List Byte := font0to7 ++ font8toF

/-- The default font as a value of the parameter FONT of reset (10_state R36). -/
def defaultFont : Vector Byte 80 := ⟨fontDefault.toArray, rfl⟩

end Sys2Proof.Machine
end

