-- ==== Sys2Proof/Config.lean ====
section
/-! DEFINITION. The fixed parameters of 00_scope R5 and the free value of 10_state R31. -/

namespace Sys2Proof

/-- `MEM_SIZE`: the address space has 4096 bytes (00_scope R5, 20_memory R40). -/
def Config.memSize : Nat := 4096

/-- The highest data address, 4095 (20_memory R47). -/
def Config.lastAddr : Nat := 4095

/-- The highest address an instruction can be fetched from, 0xFFE (20_memory R45). -/
def Config.lastFetch : Nat := 0xFFE

/-- `PROG_BASE`: the program is loaded at 0x200, where `pc` starts (00_scope R5, 10_state R14). -/
def Config.progBase : Nat := 0x200

/-- `PROG_MAX`: at most 3584 bytes of the program are loaded (00_scope R5, 70_reset R201). -/
def Config.progMax : Nat := 3584

/-- FREE VALUE: the byte on `rnd` at the n-th CXKK for which the host interface lists none (10_state R31, 43_alu R133; D16; log
entry 5). It has no body: nothing can be proved of its value, so a statement about it holds for every sequence of bytes. -/
opaque Config.rndByte : Nat → Byte

end Sys2Proof
end

