-- ==== Sys2Proof/Syntax.lean ====
section
/-! DEFINITION. The 34 instructions of 30_encoding R64, one constructor per row of spec/opcode_table.json. The canonical name of
an instruction is its pattern (30_encoding R69): the constructor `op8XY4` is the instruction 8XY4. Words that match no row are
unknown encodings (30_encoding R67), not instructions: the decoder reports them by name and the tick gives them their effect. -/

namespace Sys2Proof

inductive Instr where
  /-- 00E0, CLS: clear the display (R150). -/
  | op00E0
  /-- 00EE, RET: return from a subroutine (R100). -/
  | op00EE
  /-- 1NNN, JP nnn: jump (R101). -/
  | op1NNN (nnn : Addr12)
  /-- 2NNN, CALL nnn: call (R102). -/
  | op2NNN (nnn : Addr12)
  /-- 3XKK, SE Vx, kk: skip if equal to immediate (R110). -/
  | op3XKK (x : RegIdx) (kk : Byte)
  /-- 4XKK, SNE Vx, kk: skip if not equal to immediate (R111). -/
  | op4XKK (x : RegIdx) (kk : Byte)
  /-- 5XY0, SE Vx, Vy: skip if registers equal (R112). -/
  | op5XY0 (x y : RegIdx)
  /-- 6XKK, LD Vx, kk: load immediate (R120). -/
  | op6XKK (x : RegIdx) (kk : Byte)
  /-- 7XKK, ADD Vx, kk: add immediate, no flag (R121). -/
  | op7XKK (x : RegIdx) (kk : Byte)
  /-- 8XY0, LD Vx, Vy: assign (R122). -/
  | op8XY0 (x y : RegIdx)
  /-- 8XY1, OR Vx, Vy (R123). -/
  | op8XY1 (x y : RegIdx)
  /-- 8XY2, AND Vx, Vy (R124). -/
  | op8XY2 (x y : RegIdx)
  /-- 8XY3, XOR Vx, Vy (R125). -/
  | op8XY3 (x y : RegIdx)
  /-- 8XY4, ADD Vx, Vy: add with carry flag (R126). -/
  | op8XY4 (x y : RegIdx)
  /-- 8XY5, SUB Vx, Vy: subtract (R127). -/
  | op8XY5 (x y : RegIdx)
  /-- 8XY6, SHR Vx: shift right; the field Y is kept but has no effect (R128, 30_encoding R68). -/
  | op8XY6 (x y : RegIdx)
  /-- 8XY7, SUBN Vx, Vy: reverse subtract (R129). -/
  | op8XY7 (x y : RegIdx)
  /-- 8XYE, SHL Vx: shift left; the field Y is kept but has no effect (R130, 30_encoding R68). -/
  | op8XYE (x y : RegIdx)
  /-- 9XY0, SNE Vx, Vy: skip if registers differ (R113). -/
  | op9XY0 (x y : RegIdx)
  /-- ANNN, LD I, nnn: load index (R140). -/
  | opANNN (nnn : Addr12)
  /-- BNNN, JP V0, nnn: jump with offset (R103). -/
  | opBNNN (nnn : Addr12)
  /-- CXKK, RND Vx, kk: random AND immediate (R133). -/
  | opCXKK (x : RegIdx) (kk : Byte)
  /-- DXYN, DRW Vx, Vy, n: draw sprite (R151). -/
  | opDXYN (x y : RegIdx) (n : Nibble)
  /-- EX9E, SKP Vx: skip if key down (R114). -/
  | opEX9E (x : RegIdx)
  /-- EXA1, SKNP Vx: skip if key not down (R115). -/
  | opEXA1 (x : RegIdx)
  /-- FX07, LD Vx, DT: read the delay timer (R160). -/
  | opFX07 (x : RegIdx)
  /-- FX0A, LD Vx, K: wait for a key (R161). -/
  | opFX0A (x : RegIdx)
  /-- FX15, LD DT, Vx: set the delay timer (R162). -/
  | opFX15 (x : RegIdx)
  /-- FX18, LD ST, Vx: set the sound timer (R163). -/
  | opFX18 (x : RegIdx)
  /-- FX1E, ADD I, Vx: add register to index (R141). -/
  | opFX1E (x : RegIdx)
  /-- FX29, LD F, Vx: font glyph address (R142). -/
  | opFX29 (x : RegIdx)
  /-- FX33, LD B, Vx: store BCD (R143). -/
  | opFX33 (x : RegIdx)
  /-- FX55, LD [I], Vx: store registers (R144). -/
  | opFX55 (x : RegIdx)
  /-- FX65, LD Vx, [I]: load registers (R145). -/
  | opFX65 (x : RegIdx)
  deriving DecidableEq, Repr

end Sys2Proof
end

