-- ==== Sys2Proof/WellFormed.lean ====
section
/-! DEFINITION. What the operands of an instruction may be (30_encoding R61, R63): a check per kind of field, on numbers, and
`Instr.wf`, which asks the check of every operand. The operand types of Instr are exactly as wide as the fields, so every Instr
passes (`Sys2Proof.Laws.instr_wf`; log entry 23); the checks on numbers say what is being passed. -/

namespace Sys2Proof

/-- X and Y are register indices 0 to 15 (30_encoding R63). -/
def regOk (x : Nat) : Bool := decide (x < 16)

/-- NNN is a 12-bit unsigned value (30_encoding R63). -/
def addrOk (nnn : Nat) : Bool := decide (nnn < 4096)

/-- KK is an 8-bit unsigned value (30_encoding R63). -/
def byteOk (kk : Nat) : Bool := decide (kk < 256)

/-- N of DXYN is a row count from 0 to 15 (30_encoding R63). -/
def rowsOk (n : Nat) : Bool := decide (n < 16)

/-- Every operand lies within its field. -/
def Instr.wf : Instr → Bool
  | .op00E0 => true
  | .op00EE => true
  | .op1NNN nnn => addrOk nnn.toNat
  | .op2NNN nnn => addrOk nnn.toNat
  | .op3XKK x kk => regOk x.val && byteOk kk.toNat
  | .op4XKK x kk => regOk x.val && byteOk kk.toNat
  | .op5XY0 x y => regOk x.val && regOk y.val
  | .op6XKK x kk => regOk x.val && byteOk kk.toNat
  | .op7XKK x kk => regOk x.val && byteOk kk.toNat
  | .op8XY0 x y => regOk x.val && regOk y.val
  | .op8XY1 x y => regOk x.val && regOk y.val
  | .op8XY2 x y => regOk x.val && regOk y.val
  | .op8XY3 x y => regOk x.val && regOk y.val
  | .op8XY4 x y => regOk x.val && regOk y.val
  | .op8XY5 x y => regOk x.val && regOk y.val
  | .op8XY6 x y => regOk x.val && regOk y.val
  | .op8XY7 x y => regOk x.val && regOk y.val
  | .op8XYE x y => regOk x.val && regOk y.val
  | .op9XY0 x y => regOk x.val && regOk y.val
  | .opANNN nnn => addrOk nnn.toNat
  | .opBNNN nnn => addrOk nnn.toNat
  | .opCXKK x kk => regOk x.val && byteOk kk.toNat
  | .opDXYN x y n => regOk x.val && regOk y.val && rowsOk n.toNat
  | .opEX9E x => regOk x.val
  | .opEXA1 x => regOk x.val
  | .opFX07 x => regOk x.val
  | .opFX0A x => regOk x.val
  | .opFX15 x => regOk x.val
  | .opFX18 x => regOk x.val
  | .opFX1E x => regOk x.val
  | .opFX29 x => regOk x.val
  | .opFX33 x => regOk x.val
  | .opFX55 x => regOk x.val
  | .opFX65 x => regOk x.val

end Sys2Proof
end

