-- ==== Sys2Proof/Decode.lean ====
section
/-! DEFINITION. The decoder of 30_encoding (R60 to R68), total on any bytes, and the encoder written from the same table. An
instruction is 2 bytes, the byte at the lower address being bits 15 to 8 of the word (20_memory R44). -/

namespace Sys2Proof

/-- Why bytes give no instruction. Neither reason stops the machine by itself. -/
inductive DecodeError where
  /-- Fewer than 2 bytes were given: every instruction is exactly 2 bytes (30_encoding R60). -/
  | truncated
  /-- The word matches no row of 30_encoding R64: an unknown encoding (R67), whose effect is 60_exceptions R172. -/
  | unknown (op : Word)
  deriving DecidableEq, Repr

/-- The six fields of a word, all taken before dispatch (30_encoding R61, 40_tick R85). -/
structure Fields where
  /-- bits 15:12, the family -/
  t : Nibble
  /-- bits 11:8 -/
  x : RegIdx
  /-- bits 7:4 -/
  y : RegIdx
  /-- bits 3:0 -/
  n : Nibble
  /-- bits 7:0 -/
  kk : Byte
  /-- bits 11:0 -/
  nnn : Addr12
  deriving DecidableEq, Repr

/-- A hexadecimal digit as a register index. -/
def regOfNibble (d : Nibble) : RegIdx := d.toFin

/-- A register index as a hexadecimal digit. -/
def nibbleOfReg (x : RegIdx) : Nibble := BitVec.ofFin x

/-- The fields of a word at the bit positions of 30_encoding R61. -/
def fieldsOf (op : Word) : Fields where
  t := op.extractLsb' 12 4
  x := regOfNibble (op.extractLsb' 8 4)
  y := regOfNibble (op.extractLsb' 4 4)
  n := op.extractLsb' 0 4
  kk := op.extractLsb' 0 8
  nnn := op.extractLsb' 0 12

/-- Family 0: only the two words 0x00E0 and 0x00EE (30_encoding R66). -/
def decode0 (op : Word) : Except DecodeError Instr :=
  if op = 0x00E0#16 then .ok .op00E0
  else if op = 0x00EE#16 then .ok .op00EE
  else .error (.unknown op)

/-- Families 5 and 9 match only when the last digit is 0 (30_encoding R66). -/
def decodeXY0 (i : Instr) (op : Word) (n : Nibble) : Except DecodeError Instr :=
  if n = 0x0#4 then .ok i else .error (.unknown op)

/-- Family 8 by its last digit (30_encoding R64, R65). -/
def decode8 (op : Word) (f : Fields) : Except DecodeError Instr :=
  match f.n.toNat with
  | 0x0 => .ok (.op8XY0 f.x f.y)
  | 0x1 => .ok (.op8XY1 f.x f.y)
  | 0x2 => .ok (.op8XY2 f.x f.y)
  | 0x3 => .ok (.op8XY3 f.x f.y)
  | 0x4 => .ok (.op8XY4 f.x f.y)
  | 0x5 => .ok (.op8XY5 f.x f.y)
  | 0x6 => .ok (.op8XY6 f.x f.y)
  | 0x7 => .ok (.op8XY7 f.x f.y)
  | 0xE => .ok (.op8XYE f.x f.y)
  | _ => .error (.unknown op)

/-- Family E by its whole low byte (30_encoding R66). -/
def decodeE (op : Word) (f : Fields) : Except DecodeError Instr :=
  if f.kk = 0x9E#8 then .ok (.opEX9E f.x)
  else if f.kk = 0xA1#8 then .ok (.opEXA1 f.x)
  else .error (.unknown op)

/-- Family F by its whole low byte (30_encoding R66). -/
def decodeF (op : Word) (f : Fields) : Except DecodeError Instr :=
  if f.kk = 0x07#8 then .ok (.opFX07 f.x)
  else if f.kk = 0x0A#8 then .ok (.opFX0A f.x)
  else if f.kk = 0x15#8 then .ok (.opFX15 f.x)
  else if f.kk = 0x18#8 then .ok (.opFX18 f.x)
  else if f.kk = 0x1E#8 then .ok (.opFX1E f.x)
  else if f.kk = 0x29#8 then .ok (.opFX29 f.x)
  else if f.kk = 0x33#8 then .ok (.opFX33 f.x)
  else if f.kk = 0x55#8 then .ok (.opFX55 f.x)
  else if f.kk = 0x65#8 then .ok (.opFX65 f.x)
  else .error (.unknown op)

/-- The instruction of a word, by the high digit and then, in families 0, 5, 8, 9, E and F, by the rest of the pattern
(30_encoding R64). All sixteen high digits head a row (90_conflicts C8), so the last arm is never taken. -/
def decodeWord (op : Word) : Except DecodeError Instr :=
  let f := fieldsOf op
  match f.t.toNat with
  | 0x0 => decode0 op
  | 0x1 => .ok (.op1NNN f.nnn)
  | 0x2 => .ok (.op2NNN f.nnn)
  | 0x3 => .ok (.op3XKK f.x f.kk)
  | 0x4 => .ok (.op4XKK f.x f.kk)
  | 0x5 => decodeXY0 (.op5XY0 f.x f.y) op f.n
  | 0x6 => .ok (.op6XKK f.x f.kk)
  | 0x7 => .ok (.op7XKK f.x f.kk)
  | 0x8 => decode8 op f
  | 0x9 => decodeXY0 (.op9XY0 f.x f.y) op f.n
  | 0xA => .ok (.opANNN f.nnn)
  | 0xB => .ok (.opBNNN f.nnn)
  | 0xC => .ok (.opCXKK f.x f.kk)
  | 0xD => .ok (.opDXYN f.x f.y f.n)
  | 0xE => decodeE op f
  | 0xF => decodeF op f
  | _ => .error (.unknown op)

/-- The word of two bytes: the byte at the lower address is bits 15 to 8 (20_memory R44). -/
def wordOfBytes (hi lo : Byte) : Word := hi ++ lo

/-- The byte at the lower address of a word (20_memory R44). -/
def hiByte (op : Word) : Byte := op.extractLsb' 8 8

/-- The byte at the higher address of a word (20_memory R44). -/
def loByte (op : Word) : Byte := op.extractLsb' 0 8

/-- The instruction at the head of a list of bytes, with the bytes after it. -/
def decode : List Byte → Except DecodeError (Instr × List Byte)
  | hi :: lo :: rest =>
    match decodeWord (wordOfBytes hi lo) with
    | .ok i => .ok (i, rest)
    | .error e => .error e
  | [_] => .error .truncated
  | [] => .error .truncated

/-- A word of the format ADDR (30_encoding R62). -/
def wordAddr (t : Nibble) (nnn : Addr12) : Word := t ++ nnn

/-- A word of the format XKK, or XSS with `kk` its sub-opcode (30_encoding R62). -/
def wordXKK (t : Nibble) (x : RegIdx) (kk : Byte) : Word := t ++ nibbleOfReg x ++ kk

/-- A word of the format XYN, or XYS with `n` its sub-opcode (30_encoding R62). -/
def wordXYN (t : Nibble) (x y : RegIdx) (n : Nibble) : Word := t ++ nibbleOfReg x ++ nibbleOfReg y ++ n

/-- The word of an instruction: the row's match value with the operands in their fields (30_encoding R64). -/
def encodeWord : Instr → Word
  | .op00E0 => 0x00E0#16
  | .op00EE => 0x00EE#16
  | .op1NNN nnn => wordAddr 0x1#4 nnn
  | .op2NNN nnn => wordAddr 0x2#4 nnn
  | .op3XKK x kk => wordXKK 0x3#4 x kk
  | .op4XKK x kk => wordXKK 0x4#4 x kk
  | .op5XY0 x y => wordXYN 0x5#4 x y 0x0#4
  | .op6XKK x kk => wordXKK 0x6#4 x kk
  | .op7XKK x kk => wordXKK 0x7#4 x kk
  | .op8XY0 x y => wordXYN 0x8#4 x y 0x0#4
  | .op8XY1 x y => wordXYN 0x8#4 x y 0x1#4
  | .op8XY2 x y => wordXYN 0x8#4 x y 0x2#4
  | .op8XY3 x y => wordXYN 0x8#4 x y 0x3#4
  | .op8XY4 x y => wordXYN 0x8#4 x y 0x4#4
  | .op8XY5 x y => wordXYN 0x8#4 x y 0x5#4
  | .op8XY6 x y => wordXYN 0x8#4 x y 0x6#4
  | .op8XY7 x y => wordXYN 0x8#4 x y 0x7#4
  | .op8XYE x y => wordXYN 0x8#4 x y 0xE#4
  | .op9XY0 x y => wordXYN 0x9#4 x y 0x0#4
  | .opANNN nnn => wordAddr 0xA#4 nnn
  | .opBNNN nnn => wordAddr 0xB#4 nnn
  | .opCXKK x kk => wordXKK 0xC#4 x kk
  | .opDXYN x y n => wordXYN 0xD#4 x y n
  | .opEX9E x => wordXKK 0xE#4 x 0x9E#8
  | .opEXA1 x => wordXKK 0xE#4 x 0xA1#8
  | .opFX07 x => wordXKK 0xF#4 x 0x07#8
  | .opFX0A x => wordXKK 0xF#4 x 0x0A#8
  | .opFX15 x => wordXKK 0xF#4 x 0x15#8
  | .opFX18 x => wordXKK 0xF#4 x 0x18#8
  | .opFX1E x => wordXKK 0xF#4 x 0x1E#8
  | .opFX29 x => wordXKK 0xF#4 x 0x29#8
  | .opFX33 x => wordXKK 0xF#4 x 0x33#8
  | .opFX55 x => wordXKK 0xF#4 x 0x55#8
  | .opFX65 x => wordXKK 0xF#4 x 0x65#8

/-- The bytes of an instruction, the one at the lower address first (20_memory R44). -/
def encode (i : Instr) : List Byte := [hiByte (encodeWord i), loByte (encodeWord i)]

/-- The word whose bits, numbered as spec/opcode_table.json numbers them, are `w`; bits from `nbits` on are 0. -/
def tableWord (nbits w : Nat) : Word := BitVec.ofNat 16 (w % 2 ^ nbits)

/-- The instruction the decoder reads from the bytes of a table word, laid out as memory holds them (20_memory R44). -/
def decodeTableWord (nbits w : Nat) : Option Instr :=
  match decode [hiByte (tableWord nbits w), loByte (tableWord nbits w)] with
  | .ok (i, _) => some i
  | .error _ => none

/-- A row of 30_encoding R64: the bits its pattern fixes and their values. -/
structure Row where
  mask : Word
  pattern : Word
  deriving DecidableEq, Repr

/-- A word is the instruction of a row exactly when `op & mask = match` (30_encoding R64). -/
def Row.accepts (r : Row) (op : Word) : Bool := op &&& r.mask == r.pattern

/-- The row of an instruction in the table of 30_encoding R64. -/
def Instr.row : Instr → Row
  | .op00E0 => ⟨0xFFFF#16, 0x00E0#16⟩
  | .op00EE => ⟨0xFFFF#16, 0x00EE#16⟩
  | .op1NNN _ => ⟨0xF000#16, 0x1000#16⟩
  | .op2NNN _ => ⟨0xF000#16, 0x2000#16⟩
  | .op3XKK _ _ => ⟨0xF000#16, 0x3000#16⟩
  | .op4XKK _ _ => ⟨0xF000#16, 0x4000#16⟩
  | .op5XY0 _ _ => ⟨0xF00F#16, 0x5000#16⟩
  | .op6XKK _ _ => ⟨0xF000#16, 0x6000#16⟩
  | .op7XKK _ _ => ⟨0xF000#16, 0x7000#16⟩
  | .op8XY0 _ _ => ⟨0xF00F#16, 0x8000#16⟩
  | .op8XY1 _ _ => ⟨0xF00F#16, 0x8001#16⟩
  | .op8XY2 _ _ => ⟨0xF00F#16, 0x8002#16⟩
  | .op8XY3 _ _ => ⟨0xF00F#16, 0x8003#16⟩
  | .op8XY4 _ _ => ⟨0xF00F#16, 0x8004#16⟩
  | .op8XY5 _ _ => ⟨0xF00F#16, 0x8005#16⟩
  | .op8XY6 _ _ => ⟨0xF00F#16, 0x8006#16⟩
  | .op8XY7 _ _ => ⟨0xF00F#16, 0x8007#16⟩
  | .op8XYE _ _ => ⟨0xF00F#16, 0x800E#16⟩
  | .op9XY0 _ _ => ⟨0xF00F#16, 0x9000#16⟩
  | .opANNN _ => ⟨0xF000#16, 0xA000#16⟩
  | .opBNNN _ => ⟨0xF000#16, 0xB000#16⟩
  | .opCXKK _ _ => ⟨0xF000#16, 0xC000#16⟩
  | .opDXYN _ _ _ => ⟨0xF000#16, 0xD000#16⟩
  | .opEX9E _ => ⟨0xF0FF#16, 0xE09E#16⟩
  | .opEXA1 _ => ⟨0xF0FF#16, 0xE0A1#16⟩
  | .opFX07 _ => ⟨0xF0FF#16, 0xF007#16⟩
  | .opFX0A _ => ⟨0xF0FF#16, 0xF00A#16⟩
  | .opFX15 _ => ⟨0xF0FF#16, 0xF015#16⟩
  | .opFX18 _ => ⟨0xF0FF#16, 0xF018#16⟩
  | .opFX1E _ => ⟨0xF0FF#16, 0xF01E#16⟩
  | .opFX29 _ => ⟨0xF0FF#16, 0xF029#16⟩
  | .opFX33 _ => ⟨0xF0FF#16, 0xF033#16⟩
  | .opFX55 _ => ⟨0xF0FF#16, 0xF055#16⟩
  | .opFX65 _ => ⟨0xF0FF#16, 0xF065#16⟩

end Sys2Proof
end

