-- ==== Sys2Proof/Machine/State.lean ====
section
/-! DEFINITION. The state of the core (10_state R10 to R27), its inputs and outputs (R28 to R33), the five fault causes
(60_exceptions R173) and the state after reset (10_state R35). Plain data throughout. -/

namespace Sys2Proof.Machine

/-- The five causes of 60_exceptions R173. Each is TAKEN as the spec describes it (R182): the meaning that meets the condition
answers a next state whose `fault` latch holds the record, so no step ends in `Host.Outcome.fault` (log entry 1). -/
inductive Fault where
  /-- Code 1, raised by 2NNN when `sp = 16` (R176). Safe: the model stops where another machine might go on (D5). -/
  | stackOverflow
  /-- Code 2, raised by 00EE when `sp = 0` (R177). Safe (D5). -/
  | stackUnderflow
  /-- Code 3, raised by the fetch of a tick that begins Running with `pc > 0xFFE` (R178). Safe (D4). -/
  | fetchOutOfRange
  /-- Code 4, raised by DXYN, FX33, FX55 and FX65 when they would access an address above 4095 (R179). Safe (D4). -/
  | memOutOfRange
  /-- Code 5, raised by EX9E and EXA1 when `V[X] > 15` (R180). Safe (D6). -/
  | keyOutOfRange
  deriving DecidableEq, Repr

/-- The fault record of 60_exceptions R174. -/
structure FaultRecord where
  /-- one of the five causes -/
  cause : Fault
  /-- `pc` at the start of the tick -/
  pc : Word
  /-- the fetched word, absent for FetchOutOfRange -/
  opcode : Option Word
  /-- the lowest out-of-range address, or `V[X]`; absent for the stack faults and FetchOutOfRange (log entry 17) -/
  addr : Option Nat
  deriving DecidableEq, Repr

/-- The unknown-instruction notice `Diag(opcode, pc)` of 60_exceptions R172. -/
structure Notice where
  /-- the word that matches no row -/
  opcode : Word
  /-- the address it was fetched from -/
  pc : Word
  deriving DecidableEq, Repr

/-- The execution states of 10_state R22, as the output `status` shows them (R33). -/
inductive Status where
  | running
  | waitingForKey
  | faulted (r : FaultRecord)
  deriving DecidableEq, Repr

/-- Why the model itself gives no meaning. -/
inductive Refusal where
  /-- Raised by an arm of `exec` for an instruction that has no meaning yet; safe. Every instruction has its meaning, so nothing
  raises it. -/
  | notModelled (mnemonic : String)
  deriving DecidableEq, Repr

/-- The 4096-byte memory (10_state R24, 20_memory R40) as (address, byte) pairs in one canonical form: addresses strictly rising
and below 4096, no entry equal to what an unlisted address reads as (`Memory.unlisted`, log entry 2). -/
abbrev Memory := List Host.Cell

/-- The display: 32 rows of 64 pixels, row-major (10_state R19). -/
abbrev Display := Vector (Vector Bool 64) 32

/-- The sixteen key latches (10_state R20). -/
abbrev Keys := Vector Bool 16

/-- The whole state: the core's own (10_state R27), its input latches (R20), and four fields of the model's own that carry the
host interface through a step that is a function of State alone (INVENTORY.md, '## State'). -/
structure State where
  /-- the general registers V[0] to V[15] (R10, R11) -/
  v : Vector Byte 16
  /-- the index register I (R13) -/
  i : Word
  /-- the program counter (R14, R15) -/
  pc : Word
  /-- the call stack's slots (R16) -/
  stack : Vector Word 16
  /-- the stack pointer, the number of entries in use, 0 to 16 (R16, R17) -/
  sp : Fin 17
  /-- the delay timer (R18) -/
  dt : Byte
  /-- the sound timer (R18) -/
  st : Byte
  /-- the display (R19) -/
  disp : Display
  /-- the wait-for-key flag (R21) -/
  waiting : Bool
  /-- the register a resolved wait writes (R21) -/
  waitReg : RegIdx
  /-- the fault latch (R23) -/
  fault : Option FaultRecord
  /-- the memory (R24) -/
  mem : Memory
  /-- the key latches, written by the Host Shell alone (R20, R30) -/
  key : Keys
  /-- the model's own: what the Host Shell writes to the latches before each coming tick, the next tick first (log entry 4) -/
  keyInputs : List Keys
  /-- the model's own: the bytes the Host Shell puts on `rnd` at the coming CXKKs, the next one first (log entry 5) -/
  rndInputs : List Byte
  /-- the model's own: how many random bytes have been read (log entry 5) -/
  draws : Nat
  /-- the model's own: the notices put on `diag`, the newest first (log entry 6) -/
  diag : List Notice
  deriving DecidableEq, Repr

/-- The machine right after `reset(PROGRAM, FONT)` with the empty program and the default font (10_state R35, 70_reset R200; log
entries 2 and 3). A program is loaded by `State.resetWith`. -/
def State.reset : State where
  v := Vector.replicate 16 0
  i := 0
  pc := 0x200
  stack := Vector.replicate 16 0
  sp := 0
  dt := 0
  st := 0
  disp := Vector.replicate 32 (Vector.replicate 64 false)
  waiting := false
  waitReg := 0
  fault := none
  mem := []
  key := Vector.replicate 16 false
  keyInputs := []
  rndInputs := []
  draws := 0
  diag := []

end Sys2Proof.Machine
end

