-- ==== Sys2Proof/Machine/Operands.lean ====
section
/-! DEFINITION. Every operand form of the core: registers and immediates (30_encoding R63), the addresses `I + 0, 1, 2, ...`
(44_index_memory, head; 20_memory R47, R48), the decimal digits of FX33, the columns and rows of a sprite (45_display R151). -/

namespace Sys2Proof.Machine

/-- `V[x]` (00_scope R8). -/
def State.reg (s : State) (x : RegIdx) : Byte := s.v[x]

/-- The index of `VF`, register 15 (10_state R11). -/
def vf : RegIdx := 15

/-- `zext_16` of a 12-bit address (00_scope R7, 30_encoding R63). -/
def zextAddr (nnn : Addr12) : Word := nnn.setWidth 16

/-- `zext_16` of a byte (00_scope R7). -/
def zextByte (b : Byte) : Word := b.setWidth 16

/-- The lowest out-of-range address of an instruction that accesses the `count` bytes from `base` on, if it would access any
address above 4095; an address is an unbounded integer, never masked (20_memory R47). -/
def outOfRange (base count : Nat) : Option Nat :=
  if count = 0 then none
  else if base + count - 1 ≤ Config.lastAddr then none
  else some (max base (Config.lastAddr + 1))

/-- The three decimal digits of a byte, hundreds first (44_index_memory R143). -/
def bcdDigits (b : Byte) : List Byte :=
  [BitVec.ofNat 8 (b.toNat / 100), BitVec.ofNat 8 (b.toNat / 10 % 10), BitVec.ofNat 8 (b.toNat % 10)]

/-- The registers `V[0]` to `V[x]`, in order (44_index_memory R144). -/
def regsUpTo (v : Vector Byte 16) (x : RegIdx) : List Byte := v.toList.take (x.val + 1)

/-- The display row `y mod 32` (45_display R151, R152). -/
def wrapRow (y : Nat) : Fin 32 := Fin.ofNat 32 y

/-- The display column `x mod 64` (45_display R151, R152). -/
def wrapCol (x : Nat) : Fin 64 := Fin.ofNat 64 x

/-- The bit of a sprite row at column `c`, 0 to 7: column 0 is bit 7, the leftmost pixel (45_display R151). -/
def spriteBit (b : Byte) (c : Nat) : Bool := b.getLsbD (7 - c)

end Sys2Proof.Machine
end

