-- ==== Sys2Proof/Machine/Ops.lean ====
section
/-! DEFINITION. The named operations over memory, registers, stack, display, timers, inputs and outputs; taking a fault; reset. -/

namespace Sys2Proof.Machine

/-! ### Memory (20_memory) -/

/-- What an address with no entry reads as: its contents at reset with the default font and the empty program, the font byte in
[0,80) and 0 elsewhere (20_memory R42; log entry 2). -/
def Memory.unlisted (a : Nat) : Byte := fontDefault.getD a 0

/-- The byte at an address: a read returns the last value written, or the reset value if none (20_memory R49). -/
def Memory.read : Memory → Nat → Byte
  | [], a => Memory.unlisted a
  | c :: m, a => if c.1 = a then c.2 else Memory.read m a

/-- Memory with no entry for an address. -/
def Memory.erase (m : Memory) (a : Nat) : Memory := m.filter fun c => c.1 != a

/-- An entry put before the first entry of a greater address. -/
def Memory.insert : Memory → Nat → Byte → Memory
  | [], a, b => [(a, b)]
  | c :: m, a, b => if a < c.1 then (a, b) :: c :: m else c :: Memory.insert m a b

/-- Write of one byte; writing what an unlisted address reads as removes the entry. -/
def Memory.write (m : Memory) (a : Nat) (b : Byte) : Memory :=
  if b = Memory.unlisted a then Memory.erase m a else Memory.insert (Memory.erase m a) a b

/-- Byte writes at ascending addresses from `a` on (44_index_memory R143, R144). -/
def Memory.writeBytes : Memory → Nat → List Byte → Memory
  | m, _, [] => m
  | m, a, b :: bs => Memory.writeBytes (Memory.write m a b) (a + 1) bs

/-- Byte reads at the `count` ascending addresses from `a` on (45_display R151). -/
def Memory.readBytes (m : Memory) (a count : Nat) : List Byte :=
  (List.range count).map fun k => Memory.read m (a + k)

/-- The addresses rise strictly, each above `lo` or equal to it, all below 4096, and no entry equals what its address reads as
unlisted. -/
def Memory.wfFrom : Nat → Memory → Bool
  | _, [] => true
  | lo, c :: m =>
    decide (lo ≤ c.1) && decide (c.1 < Config.memSize) && decide (c.2 ≠ Memory.unlisted c.1) && Memory.wfFrom (c.1 + 1) m

/-- The canonical form of a memory: equal memories are equal lists (log entry 2). -/
def Memory.wf (m : Memory) : Bool := Memory.wfFrom 0 m

/-- The memory with a byte written. -/
def State.storeBytes (s : State) (a : Nat) (bs : List Byte) : State := { s with mem := s.mem.writeBytes a bs }

/-- `Fetch(pc)`, big-endian (20_memory R44). -/
def State.fetchWord (s : State) : Word := wordOfBytes (s.mem.read s.pc.toNat) (s.mem.read (s.pc.toNat + 1))

/-! ### Registers (10_state R10 to R14) -/

/-- `V[x] <- b` (00_scope R8). -/
def State.setReg (s : State) (x : RegIdx) (b : Byte) : State := { s with v := s.v.set x b }

/-- `V[k] <- mem[I + k]` for k from 0 to x (44_index_memory R145). -/
def State.loadRegs (s : State) (x : RegIdx) : State :=
  { s with v := Vector.ofFn fun k : Fin 16 => if k ≤ x then s.mem.read (s.i.toNat + k.val) else s.v[k] }

/-- `I <- w`. -/
def State.setI (s : State) (w : Word) : State := { s with i := w }

/-- `pc <- w`. -/
def State.setPc (s : State) (w : Word) : State := { s with pc := w }

/-- The advance of an instruction that does not redirect control flow (40_tick R87). -/
def State.advance (s : State) : State := { s with pc := s.pc + 2 }

/-- The final pc of a skip: plus 4 when the condition holds, plus 2 when not (42_skip; 40_tick R87). -/
def State.skipIf (s : State) (c : Bool) : State := { s with pc := if c then s.pc + 4 else s.pc + 2 }

/-! ### The call stack (10_state R16, R17) -/

/-- Push: `stack[sp] <- w; sp <- sp + 1`, legal when `sp <= 15`. -/
def State.push (s : State) (w : Word) : Option State :=
  if h : s.sp.val < 16 then
    some { s with stack := s.stack.set s.sp.val w h, sp := ⟨s.sp.val + 1, by omega⟩ }
  else none

/-- Pop: `sp <- sp - 1; value = stack[sp]`, legal when `sp >= 1`; the slot keeps its value. -/
def State.pop (s : State) : Option (Word × State) :=
  if h : 0 < s.sp.val then
    some (s.stack[s.sp.val - 1]'(by omega), { s with sp := ⟨s.sp.val - 1, by omega⟩ })
  else none

/-! ### The display (10_state R19, 45_display) -/

/-- The pixel at a row and a column. -/
def Display.pixel (d : Display) (r : Fin 32) (c : Fin 64) : Bool := d[r][c]

/-- `disp[r][c] <- b`. -/
def Display.setPixel (d : Display) (r : Fin 32) (c : Fin 64) (b : Bool) : Display := d.set r (d[r].set c b)

/-- The clear display (45_display R150). -/
def Display.clear : Display := Vector.replicate 32 (Vector.replicate 64 false)

/-- The display with a collision flag: what the loops of 45_display R151 carry. -/
structure Canvas where
  disp : Display
  hit : Bool
  deriving DecidableEq, Repr

/-- One sprite bit at a pixel: the collision test, then the XOR (45_display R151). -/
def Canvas.drawBit (k : Canvas) (r : Fin 32) (c : Fin 64) (bit : Bool) : Canvas where
  disp := k.disp.setPixel r c (k.disp.pixel r c ^^ bit)
  hit := k.hit || (bit && k.disp.pixel r c)

/-- The columns of one sprite row, 0 to 7, in order (45_display R151). -/
def Canvas.drawRow (k : Canvas) (r : Fin 32) (x0 : Nat) (b : Byte) : Canvas :=
  (List.range 8).foldl (fun k c => k.drawBit r (wrapCol (x0 + c)) (spriteBit b c)) k

/-- The rows of a sprite, the first at row `y mod 32`, each next one a row further down (45_display R151). -/
def Canvas.drawRows : Canvas → Nat → Nat → List Byte → Canvas
  | k, _, _, [] => k
  | k, x0, y, b :: bs => Canvas.drawRows (k.drawRow (wrapRow y) x0 b) x0 (y + 1) bs

/-! ### Timers (40_tick R88) -/

/-- A timer counted down by one, stopping at 0. -/
def countedDown (t : Byte) : Byte := if t = 0 then 0 else t - 1

/-- Step 6 of the tick: each timer that is not zero is decreased by one. -/
def State.countdown (s : State) : State := { s with dt := countedDown s.dt, st := countedDown s.st }

/-! ### Inputs and outputs (10_state R28 to R33) -/

/-- The latches of this tick: what the host has written before it, else what they were (10_state R20, R30; log entry 4). -/
def State.sampleKeys (s : State) : State :=
  { s with key := s.keyInputs.headD s.key, keyInputs := s.keyInputs.tail }

/-- The byte on `rnd` at this CXKK: what the host interface lists, else the free value (10_state R31; log entry 5). -/
def State.rnd (s : State) : Byte := s.rndInputs.headD (Config.rndByte s.draws)

/-- The state after the byte on `rnd` has been read. -/
def State.consumeRnd (s : State) : State := { s with rndInputs := s.rndInputs.tail, draws := s.draws + 1 }

/-- `emit Diag(op, pc)` (60_exceptions R172; log entry 6). -/
def State.emit (s : State) (op : Word) : State := { s with diag := ⟨op, s.pc⟩ :: s.diag }

/-- `status` (10_state R22, R33; 00_scope R8): Faulted when a record is latched, else WaitingForKey when `waiting`. -/
def State.status (s : State) : Status :=
  match s.fault with
  | some r => .faulted r
  | none => if s.waiting then .waitingForKey else .running

/-! ### Keys (40_tick R82, R83) -/

/-- The least index of a latch that is true (40_tick R83; D14, log entry 11). -/
def Keys.least (k : Keys) : Option RegIdx := (List.finRange 16).find? fun j => k[j]

/-- Step 2 of the tick, the wait check: with a latch true, its index goes to `V[wait_reg]` and the wait ends; else nothing
(40_tick R82). -/
def State.waitCheck (s : State) : State :=
  match s.key.least with
  | some k => { s.setReg s.waitReg (BitVec.ofNat 8 k.val) with waiting := false }
  | none => s

/-! ### Faults and reset (60_exceptions R174, R175, R182, R183; 70_reset R200) -/

/-- Taking a fault: the record is latched and nothing else changes (60_exceptions R175, R182). A record already latched is kept:
the latch holds the first and only fault (R183). -/
def State.raise (s : State) (cause : Fault) (opcode : Option Word) (addr : Option Nat) : State :=
  { s with fault := s.fault.or (some ⟨cause, s.pc, opcode, addr⟩) }

/-- There is no return from a fault but `reset(PROGRAM, FONT)` (60_exceptions R183, 70_reset R200 to R202): memory all zero, the font
at [0,80), the first 3584 bytes of the program at 0x200, every other piece of state at its reset value. -/
def State.resetWith (program : List Byte) (font : Vector Byte 80) : State :=
  { State.reset with
    mem := (Memory.writeBytes [] 0 font.toList).writeBytes Config.progBase (program.take Config.progMax) }

end Sys2Proof.Machine
end

