-- ==== Sys2Proof/Machine/Flags.lean ====
section
/-! DEFINITION. Every flag computation of the core: the seven values written to VF (10_state R11), each 0 or 1, and the order of
result and flag (R12). The collision flag of DXYN is computed with the draw (`Canvas.drawBit`). -/

namespace Sys2Proof.Machine

/-- A flag as the byte written to VF: 1 or 0 (10_state R11). -/
def flagByte (b : Bool) : Byte := if b then 1 else 0

/-- 8XY4: carry out of bit 7, `x + y > 255` (43_alu R126). -/
def carry8 (x y : Byte) : Bool := decide (x.toNat + y.toNat > 255)

/-- 8XY5 and 8XY7: no borrow in `a - b`, that is `a >= b` (43_alu R127, R129). -/
def noBorrow (a b : Byte) : Bool := decide (a.toNat ≥ b.toNat)

/-- 8XY6: bit 0 before the shift (43_alu R128). -/
def lowBit (x : Byte) : Bool := x.getLsbD 0

/-- 8XYE: bit 7 before the shift (43_alu R130). -/
def highBit (x : Byte) : Bool := x.getLsbD 7

/-- FX1E: carry out of bit 15, `I + V[X] > 0xFFFF` (44_index_memory R141; D9, log entry 13). -/
def carry16 (i : Word) (x : Byte) : Bool := decide (i.toNat + x.toNat > 0xFFFF)

/-- VF written with a flag. -/
def State.setFlag (s : State) (b : Bool) : State := s.setReg vf (flagByte b)

/-- The result to `V[x]` first, the flag to VF second, so with x = 15 the flag remains (10_state R12; D7, log entry 8). -/
def State.setResultFlag (s : State) (x : RegIdx) (result : Byte) (flag : Bool) : State := (s.setReg x result).setFlag flag

end Sys2Proof.Machine
end

