-- ==== Sys2Proof/Machine/Alu.lean ====
section
/-! DEFINITION. Register load and ALU: 6XKK, 7XKK, 8XY0 to 8XY7, 8XYE, CXKK (43_alu R120 to R133). All arithmetic is unsigned and wraps
modulo 256 (R131). -/

namespace Sys2Proof.Machine

/-- 6XKK, load immediate (43_alu R120). -/
def exec6XKK (x : RegIdx) (kk : Byte) (s : State) : Host.Outcome State Fault Refusal := .next (s.setReg x kk).advance

/-- 7XKK, add immediate, no flag (43_alu R121). -/
def exec7XKK (x : RegIdx) (kk : Byte) (s : State) : Host.Outcome State Fault Refusal := .next (s.setReg x (s.reg x + kk)).advance

/-- 8XY0, assign (43_alu R122). -/
def exec8XY0 (x y : RegIdx) (s : State) : Host.Outcome State Fault Refusal := .next (s.setReg x (s.reg y)).advance

/-- 8XY1, OR, VF unchanged (43_alu R123). -/
def exec8XY1 (x y : RegIdx) (s : State) : Host.Outcome State Fault Refusal := .next (s.setReg x (s.reg x ||| s.reg y)).advance

/-- 8XY2, AND, VF unchanged (43_alu R124). -/
def exec8XY2 (x y : RegIdx) (s : State) : Host.Outcome State Fault Refusal := .next (s.setReg x (s.reg x &&& s.reg y)).advance

/-- 8XY3, XOR, VF unchanged (43_alu R125). -/
def exec8XY3 (x y : RegIdx) (s : State) : Host.Outcome State Fault Refusal := .next (s.setReg x (s.reg x ^^^ s.reg y)).advance

/-- 8XY4, add with carry flag (43_alu R126). -/
def exec8XY4 (x y : RegIdx) (s : State) : Host.Outcome State Fault Refusal :=
  .next (s.setResultFlag x (s.reg x + s.reg y) (carry8 (s.reg x) (s.reg y))).advance

/-- 8XY5, subtract, VF = not borrow (43_alu R127). -/
def exec8XY5 (x y : RegIdx) (s : State) : Host.Outcome State Fault Refusal :=
  .next (s.setResultFlag x (s.reg x - s.reg y) (noBorrow (s.reg x) (s.reg y))).advance

/-- 8XY6, shift right, VF = the bit shifted out; Y ignored (43_alu R128). -/
def exec8XY6 (x _y : RegIdx) (s : State) : Host.Outcome State Fault Refusal :=
  .next (s.setResultFlag x (s.reg x >>> 1) (lowBit (s.reg x))).advance

/-- 8XY7, reverse subtract, VF = not borrow (43_alu R129). -/
def exec8XY7 (x y : RegIdx) (s : State) : Host.Outcome State Fault Refusal :=
  .next (s.setResultFlag x (s.reg y - s.reg x) (noBorrow (s.reg y) (s.reg x))).advance

/-- 8XYE, shift left, VF = the bit shifted out; Y ignored (43_alu R130). -/
def exec8XYE (x _y : RegIdx) (s : State) : Host.Outcome State Fault Refusal :=
  .next (s.setResultFlag x (s.reg x <<< 1) (highBit (s.reg x))).advance

/-- CXKK, random AND immediate (43_alu R133). -/
def execCXKK (x : RegIdx) (kk : Byte) (s : State) : Host.Outcome State Fault Refusal := .next (s.consumeRnd.setReg x (s.rnd &&& kk)).advance

end Sys2Proof.Machine
end

