-- ==== Sys2Proof/Machine/Draw.lean ====
section
/-! DEFINITION. The display instructions: 00E0, DXYN (45_display R150 to R156). -/

namespace Sys2Proof.Machine

/-- 00E0, clear display (45_display R150). -/
def exec00E0 (s : State) : Host.Outcome State Fault Refusal := .next { s with disp := Display.clear }.advance

/-- The display and the collision flag after a sprite of `n` rows is drawn from `I`, all operands read first (45_display R151,
R154). -/
def drawSprite (s : State) (x y : RegIdx) (n : Nibble) : Canvas :=
  Canvas.drawRows ⟨s.disp, false⟩ (s.reg x).toNat (s.reg y).toNat (s.mem.readBytes s.i.toNat n.toNat)

/-- DXYN, draw sprite (45_display R151): VF is 1 on a collision and 0 otherwise. -/
def execDXYN (x y : RegIdx) (n : Nibble) (s : State) : Host.Outcome State Fault Refusal :=
  match outOfRange s.i.toNat n.toNat with
  | some a => .next (s.raise .memOutOfRange (some (encodeWord (.opDXYN x y n))) (some a))
  | none =>
    .next ({ s with disp := (drawSprite s x y n).disp }.setFlag (drawSprite s x y n).hit).advance

end Sys2Proof.Machine
end

