-- ==== Sys2Proof/Machine/Flow.lean ====
section
/-! DEFINITION. Control transfer: 00EE, 1NNN, 2NNN, BNNN (41_flow R100 to R104). -/

namespace Sys2Proof.Machine

/-- 00EE, return (41_flow R100): `pc <- stack[sp] + 2` with the slot just popped; StackUnderflow when `sp = 0`. -/
def exec00EE (s : State) : Host.Outcome State Fault Refusal :=
  match s.pop with
  | some (w, t) => .next (t.setPc (w + 2))
  | none => .next (s.raise .stackUnderflow (some (encodeWord .op00EE)) none)

/-- 1NNN, jump (41_flow R101). -/
def exec1NNN (nnn : Addr12) (s : State) : Host.Outcome State Fault Refusal := .next (s.setPc (zextAddr nnn))

/-- 2NNN, call (41_flow R102): pushes the address of the 2NNN itself; StackOverflow when `sp = 16`. -/
def exec2NNN (nnn : Addr12) (s : State) : Host.Outcome State Fault Refusal :=
  match s.push s.pc with
  | some t => .next (t.setPc (zextAddr nnn))
  | none => .next (s.raise .stackOverflow (some (encodeWord (.op2NNN nnn))) none)

/-- BNNN, jump with offset (41_flow R103): `pc <- NNN + V0`, not reduced to 12 bits. -/
def execBNNN (nnn : Addr12) (s : State) : Host.Outcome State Fault Refusal := .next (s.setPc (zextAddr nnn + zextByte (s.reg 0)))

end Sys2Proof.Machine
end

