-- ==== Sys2Proof/Machine/Index.lean ====
section
/-! DEFINITION. Index register and memory: ANNN, FX1E, FX29, FX33, FX55, FX65 (44_index_memory R140 to R146). A range that leaves the
memory is refused as a whole, before the first access (20_memory R47, 60_exceptions R175). -/

namespace Sys2Proof.Machine

/-- ANNN, load index (44_index_memory R140). -/
def execANNN (nnn : Addr12) (s : State) : Host.Outcome State Fault Refusal := .next (s.setI (zextAddr nnn)).advance

/-- FX1E, add register to index, VF = carry out of bit 15 (44_index_memory R141). -/
def execFX1E (x : RegIdx) (s : State) : Host.Outcome State Fault Refusal :=
  .next ((s.setI (s.i + zextByte (s.reg x))).setFlag (carry16 s.i (s.reg x))).advance

/-- FX29, font glyph address: a 16-bit product, V[X] not masked (44_index_memory R142). -/
def execFX29 (x : RegIdx) (s : State) : Host.Outcome State Fault Refusal := .next (s.setI (zextByte (s.reg x) * 5)).advance

/-- FX33, store BCD (44_index_memory R143). -/
def execFX33 (x : RegIdx) (s : State) : Host.Outcome State Fault Refusal :=
  match outOfRange s.i.toNat 3 with
  | some a => .next (s.raise .memOutOfRange (some (encodeWord (.opFX33 x))) (some a))
  | none => .next (s.storeBytes s.i.toNat (bcdDigits (s.reg x))).advance

/-- FX55, store registers (44_index_memory R144). -/
def execFX55 (x : RegIdx) (s : State) : Host.Outcome State Fault Refusal :=
  match outOfRange s.i.toNat (x.val + 1) with
  | some a => .next (s.raise .memOutOfRange (some (encodeWord (.opFX55 x))) (some a))
  | none => .next (s.storeBytes s.i.toNat (regsUpTo s.v x)).advance

/-- FX65, load registers (44_index_memory R145). -/
def execFX65 (x : RegIdx) (s : State) : Host.Outcome State Fault Refusal :=
  match outOfRange s.i.toNat (x.val + 1) with
  | some a => .next (s.raise .memOutOfRange (some (encodeWord (.opFX65 x))) (some a))
  | none => .next (s.loadRegs x).advance

end Sys2Proof.Machine
end

