-- ==== Sys2Proof/Machine/Skip.lean ====
section
/-! DEFINITION. The conditional skips: 3XKK, 4XKK, 5XY0, 9XY0, EX9E, EXA1 (42_skip R110 to R116). -/

namespace Sys2Proof.Machine

/-- 3XKK, skip if equal to immediate (42_skip R110). -/
def exec3XKK (x : RegIdx) (kk : Byte) (s : State) : Host.Outcome State Fault Refusal := .next (s.skipIf (s.reg x == kk))

/-- 4XKK, skip if not equal to immediate (42_skip R111). -/
def exec4XKK (x : RegIdx) (kk : Byte) (s : State) : Host.Outcome State Fault Refusal := .next (s.skipIf (s.reg x != kk))

/-- 5XY0, skip if registers equal (42_skip R112). -/
def exec5XY0 (x y : RegIdx) (s : State) : Host.Outcome State Fault Refusal := .next (s.skipIf (s.reg x == s.reg y))

/-- 9XY0, skip if registers differ (42_skip R113). -/
def exec9XY0 (x y : RegIdx) (s : State) : Host.Outcome State Fault Refusal := .next (s.skipIf (s.reg x != s.reg y))

/-- The latch a key skip tests, or none when the index is above 15 (42_skip R114; D6). -/
def keyAt (s : State) (b : Byte) : Option Bool := s.key[b.toNat]?

/-- EX9E, skip if key down (42_skip R114); KeyOutOfRange when `V[X] > 15`. -/
def execEX9E (x : RegIdx) (s : State) : Host.Outcome State Fault Refusal :=
  match keyAt s (s.reg x) with
  | some down => .next (s.skipIf down)
  | none => .next (s.raise .keyOutOfRange (some (encodeWord (.opEX9E x))) (some (s.reg x).toNat))

/-- EXA1, skip if key not down (42_skip R115); KeyOutOfRange when `V[X] > 15`. -/
def execEXA1 (x : RegIdx) (s : State) : Host.Outcome State Fault Refusal :=
  match keyAt s (s.reg x) with
  | some down => .next (s.skipIf (!down))
  | none => .next (s.raise .keyOutOfRange (some (encodeWord (.opEXA1 x))) (some (s.reg x).toNat))

end Sys2Proof.Machine
end

