-- ==== Sys2Proof/Machine/TimerKey.lean ====
section
/-! DEFINITION. Timers and key wait: FX07, FX0A, FX15, FX18 (46_timer_key R160 to R164). The countdown follows in the tick (40_tick R88). -/

namespace Sys2Proof.Machine

/-- FX07, read delay timer, before this tick's countdown (46_timer_key R160). -/
def execFX07 (x : RegIdx) (s : State) : Host.Outcome State Fault Refusal := .next (s.setReg x s.dt).advance

/-- FX0A, wait for key (46_timer_key R161): enters the wait; a later tick resolves it (`State.waitCheck`). -/
def execFX0A (x : RegIdx) (s : State) : Host.Outcome State Fault Refusal := .next { s with waiting := true, waitReg := x }.advance

/-- FX15, set delay timer (46_timer_key R162). -/
def execFX15 (x : RegIdx) (s : State) : Host.Outcome State Fault Refusal := .next { s with dt := s.reg x }.advance

/-- FX18, set sound timer (46_timer_key R163). -/
def execFX18 (x : RegIdx) (s : State) : Host.Outcome State Fault Refusal := .next { s with st := s.reg x }.advance

end Sys2Proof.Machine
end

