-- ==== Sys2Proof/Machine/Tick.lean ====
section
/-! DEFINITION. The tick of 40_tick R80, the core's only operation besides reset, in the spec's six steps. -/

namespace Sys2Proof.Machine

/-- The effect of an unknown encoding: one notice and `pc + 2` (60_exceptions R172; 40_tick R86). -/
def execUnknown (op : Word) (s : State) : Host.Outcome State Fault Refusal := .next (s.emit op).advance

/-- Steps 4 and 5: the word is decoded and its instruction's rule performed once (40_tick R85, R86). -/
def execWord (op : Word) (s : State) : Host.Outcome State Fault Refusal :=
  match decodeWord op with
  | .ok i => exec i s
  | .error _ => execUnknown op s

/-- Step 6: the countdown, in every tick that reached step 5 without a fault (40_tick R88). -/
def finishTick : Host.Outcome State Fault Refusal → Host.Outcome State Fault Refusal
  | .next s => if s.fault.isSome then .next s else .next s.countdown
  | .fault r => .fault r
  | .refused r => .refused r

/-- Steps 1 to 6 on a state whose latches are those of this tick (40_tick R80): a faulted core does nothing (R81); a waiting core
inspects the keys and does nothing else (R82); a running core checks the fetch's bounds (20_memory R45), fetches, executes and
counts down. -/
def tickBody (s : State) : Host.Outcome State Fault Refusal :=
  if s.fault.isSome then .next s
  else if s.waiting then .next s.waitCheck
  else if Config.lastFetch < s.pc.toNat then .next (s.raise .fetchOutOfRange none none)
  else finishTick (execWord s.fetchWord s)

/-- One tick: the latches are sampled once, then the six steps (10_state R29, R30). -/
def tick (s : State) : Host.Outcome State Fault Refusal := tickBody s.sampleKeys

end Sys2Proof.Machine
end

