-- ==== Sys2Proof/Machine/Step.lean ====
section
/-! DEFINITION. One step is one tick (10_state R29); and the placing of an instruction where the next step fetches it. -/

namespace Sys2Proof.Machine

/-- One `tick` of the core. -/
def step (s : State) : Host.Outcome State Fault Refusal := tick s

/-- The state with the instruction whose table bits are `w` stored at `pc`, high byte first (20_memory R44), and with whatever
would keep the next tick from fetching it undone: a latched fault, a wait, a `pc` no instruction can be fetched from (log
entry 22). From reset only the two bytes change. -/
def State.withFetchWord (s : State) (nbits w : Nat) : State :=
  let pc : Word := if Config.lastFetch < s.pc.toNat then BitVec.ofNat 16 Config.progBase else s.pc
  { s with
    fault := none
    waiting := false
    pc := pc
    mem := s.mem.writeBytes pc.toNat [hiByte (tableWord nbits w), loByte (tableWord nbits w)] }

end Sys2Proof.Machine
end

