-- ==== Sys2Proof/Safety.lean ====
section
/-! DEFINITION. What counts as a safe run and the terms the statements use: the execution states, the condition under which each
instruction faults, the invariant of every tick boundary. A Faulted state is never final (60_exceptions R175): a run counts only
when it ends, and so has stayed, without a latched fault. -/

namespace Sys2Proof.Machine

/-- The execution state Running: no fault latched and not waiting (10_state R22). -/
abbrev State.Running (s : State) : Prop := s.fault = none ∧ s.waiting = false

/-- `k` ticks lead from `s` to `t` and no fault is latched at the end; the latch is sticky, so none was latched on the way
(60_exceptions R175, R183). -/
abbrev SafeRun (k : Nat) (s t : State) : Prop := Sys2Proof.core.run k s = .next t ∧ t.fault = none

/-- The fault of an instruction in a state, by the table of 60_exceptions R173, if any. -/
def faultOf (i : Instr) (s : State) : Option Fault :=
  match i with
  | .op00EE => if s.sp.val = 0 then some .stackUnderflow else none
  | .op2NNN _ => if s.sp.val = 16 then some .stackOverflow else none
  | .opDXYN _ _ n => if 0 < n.toNat ∧ 4095 < s.i.toNat + n.toNat - 1 then some .memOutOfRange else none
  | .opFX33 _ => if 4095 < s.i.toNat + 2 then some .memOutOfRange else none
  | .opFX55 x => if 4095 < s.i.toNat + x.val then some .memOutOfRange else none
  | .opFX65 x => if 4095 < s.i.toNat + x.val then some .memOutOfRange else none
  | .opEX9E x => if 15 < (s.reg x).toNat then some .keyOutOfRange else none
  | .opEXA1 x => if 15 < (s.reg x).toNat then some .keyOutOfRange else none
  | .op00E0 => none
  | .op1NNN _ => none
  | .op3XKK _ _ => none
  | .op4XKK _ _ => none
  | .op5XY0 _ _ => none
  | .op6XKK _ _ => none
  | .op7XKK _ _ => none
  | .op8XY0 _ _ => none
  | .op8XY1 _ _ => none
  | .op8XY2 _ _ => none
  | .op8XY3 _ _ => none
  | .op8XY4 _ _ => none
  | .op8XY5 _ _ => none
  | .op8XY6 _ _ => none
  | .op8XY7 _ _ => none
  | .op8XYE _ _ => none
  | .op9XY0 _ _ => none
  | .opANNN _ => none
  | .opBNNN _ => none
  | .opCXKK _ _ => none
  | .opFX07 _ => none
  | .opFX0A _ => none
  | .opFX15 _ => none
  | .opFX18 _ => none
  | .opFX1E _ => none
  | .opFX29 _ => none

/-- The fault of a tick that begins Running, by 60_exceptions R173 and the order of checks of R181. -/
def tickFaultOf (s : State) : Option Fault :=
  if 0xFFE < s.pc.toNat then some .fetchOutOfRange
  else match decodeWord s.fetchWord with
    | .ok i => faultOf i s
    | .error _ => none

/-- How an instruction that does not fault leaves `pc` (10_state R14). -/
inductive PcEffect where
  /-- a jump, call or return sets it -/
  | redirects
  /-- a skip adds 4 or 2 -/
  | skips
  /-- every other instruction adds 2 -/
  | advances
  deriving DecidableEq, Repr

/-- The class of an instruction in the table of 10_state R14. -/
def pcEffect : Instr → PcEffect
  | .op00EE => .redirects
  | .op1NNN _ => .redirects
  | .op2NNN _ => .redirects
  | .opBNNN _ => .redirects
  | .op3XKK _ _ => .skips
  | .op4XKK _ _ => .skips
  | .op5XY0 _ _ => .skips
  | .op9XY0 _ _ => .skips
  | .opEX9E _ => .skips
  | .opEXA1 _ => .skips
  | .op00E0 => .advances
  | .op6XKK _ _ => .advances
  | .op7XKK _ _ => .advances
  | .op8XY0 _ _ => .advances
  | .op8XY1 _ _ => .advances
  | .op8XY2 _ _ => .advances
  | .op8XY3 _ _ => .advances
  | .op8XY4 _ _ => .advances
  | .op8XY5 _ _ => .advances
  | .op8XY6 _ _ => .advances
  | .op8XY7 _ _ => .advances
  | .op8XYE _ _ => .advances
  | .opANNN _ => .advances
  | .opCXKK _ _ => .advances
  | .opDXYN _ _ _ => .advances
  | .opFX07 _ => .advances
  | .opFX0A _ => .advances
  | .opFX15 _ => .advances
  | .opFX18 _ => .advances
  | .opFX1E _ => .advances
  | .opFX29 _ => .advances
  | .opFX33 _ => .advances
  | .opFX55 _ => .advances
  | .opFX65 _ => .advances

/-- How an instruction may write VF (10_state R11). -/
inductive VfEffect where
  /-- one of the seven: a flag, 0 or 1, whatever X and Y are -/
  | flag
  /-- as its destination `V[x]`, when x is 15 -/
  | destination (x : RegIdx)
  /-- never -/
  | never
  deriving DecidableEq, Repr

/-- The class of an instruction by 10_state R11. -/
def vfEffect : Instr → VfEffect
  | .op8XY4 _ _ => .flag
  | .op8XY5 _ _ => .flag
  | .op8XY6 _ _ => .flag
  | .op8XY7 _ _ => .flag
  | .op8XYE _ _ => .flag
  | .opFX1E _ => .flag
  | .opDXYN _ _ _ => .flag
  | .op6XKK x _ => .destination x
  | .op7XKK x _ => .destination x
  | .op8XY0 x _ => .destination x
  | .op8XY1 x _ => .destination x
  | .op8XY2 x _ => .destination x
  | .op8XY3 x _ => .destination x
  | .opCXKK x _ => .destination x
  | .opFX07 x => .destination x
  | .opFX65 x => .destination x
  | .op00E0 => .never
  | .op00EE => .never
  | .op1NNN _ => .never
  | .op2NNN _ => .never
  | .op3XKK _ _ => .never
  | .op4XKK _ _ => .never
  | .op5XY0 _ _ => .never
  | .op9XY0 _ _ => .never
  | .opANNN _ => .never
  | .opBNNN _ => .never
  | .opEX9E _ => .never
  | .opEXA1 _ => .never
  | .opFX0A _ => .never
  | .opFX15 _ => .never
  | .opFX18 _ => .never
  | .opFX29 _ => .never
  | .opFX33 _ => .never
  | .opFX55 _ => .never

/-- Every slot in use holds the address of a 2NNN that was fetched, so at most 0xFFE (10_state R15, R16). -/
abbrev State.StackInRange (s : State) : Prop := ∀ k : Fin 16, k.val < s.sp.val → s.stack[k].toNat ≤ 0xFFE

/-- What holds at every tick boundary: the memory is in its canonical form, `pc` is at most 0x10FE (10_state R15), the stack in use
holds addresses of calls, and a faulted core is not waiting (10_state R22: only Running leads to Faulted). -/
structure State.Inv (s : State) : Prop where
  memory : s.mem.wf = true
  pc : s.pc.toNat ≤ 0x10FE
  stack : s.StackInRange
  faulted : s.fault.isSome = true → s.waiting = false

end Sys2Proof.Machine
end

