-- ==== Sys2Proof/Certificates/Slice0/Obligations.lean ====
section
/-! DEFINITION. The statements for the provers. "The spec's own decision D<n>" in a docstring means: the clause rests on a choice that
spec/92_eei_decisions.md marks as the spec's own, so the statement has basis 'derived'; "model's choice, log entry n" means that
notes/assumptions/<n>.md declares it. Hypotheses are on the state and the operands alone; each has a witness in
Sys2Proof/Tests/Slice0.lean. A fault in a statement is a latched record (60_exceptions R182). -/

open Sys2Proof Sys2Proof.Machine

/-! ### Encoding (30_encoding) -/

/-- Words written out in the spec (95_test_vectors sections 2, 5 and 6; 42_skip for 0x432A) read as the instructions it lists, at least
one of each of the sixteen families and of each of the six formats. That the last three, of families 0, 5 and F, are unknown is strict
matching, the spec's own decision D12 (log entry 10). -/
def Obligations.SampleWordsDecode : Prop :=
  decodeWord 0x00E0 = .ok .op00E0 ∧ decodeWord 0x00EE = .ok .op00EE ∧
  decodeWord 0x1234 = .ok (.op1NNN 0x234) ∧ decodeWord 0x2FFF = .ok (.op2NNN 0xFFF) ∧
  decodeWord 0x3A42 = .ok (.op3XKK 0xA 0x42) ∧ decodeWord 0x432A = .ok (.op4XKK 3 0x2A) ∧
  decodeWord 0x5AB0 = .ok (.op5XY0 0xA 0xB) ∧ decodeWord 0x6A2F = .ok (.op6XKK 0xA 0x2F) ∧
  decodeWord 0x7203 = .ok (.op7XKK 2 3) ∧ decodeWord 0x8AB7 = .ok (.op8XY7 0xA 0xB) ∧
  decodeWord 0x8ABE = .ok (.op8XYE 0xA 0xB) ∧ decodeWord 0x9AB0 = .ok (.op9XY0 0xA 0xB) ∧
  decodeWord 0xA2F0 = .ok (.opANNN 0x2F0) ∧ decodeWord 0xB001 = .ok (.opBNNN 0x001) ∧
  decodeWord 0xC30F = .ok (.opCXKK 3 0x0F) ∧ decodeWord 0xD01F = .ok (.opDXYN 0 1 15) ∧
  decodeWord 0xEAA1 = .ok (.opEXA1 0xA) ∧ decodeWord 0xFA65 = .ok (.opFX65 0xA) ∧
  decodeWord 0x0000 = .error (.unknown 0x0000) ∧ decodeWord 0x5121 = .error (.unknown 0x5121) ∧
  decodeWord 0xF1FF = .error (.unknown 0xF1FF)

/-- R61: the six fields of a word, as the arithmetic of the rule's table; where its two bytes in memory hold them; and each of the 32
instructions with operands takes the fields its pattern names, one group per format. -/
def Obligations.FieldsAreTheirBits : Prop :=
  (∀ hi lo : Byte,
    (fieldsOf (wordOfBytes hi lo)).t.toNat = hi.toNat / 16 ∧ (fieldsOf (wordOfBytes hi lo)).x.val = hi.toNat % 16 ∧
    (fieldsOf (wordOfBytes hi lo)).y.val = lo.toNat / 16 ∧ (fieldsOf (wordOfBytes hi lo)).n.toNat = lo.toNat % 16 ∧
    (fieldsOf (wordOfBytes hi lo)).kk = lo) ∧
  (∀ op : Word,
    (∀ form ∈ [Instr.op1NNN, .op2NNN, .opANNN, .opBNNN], ∀ nnn, decodeWord op = .ok (form nnn) → nnn = (fieldsOf op).nnn) ∧
    (∀ form ∈ [Instr.op3XKK, .op4XKK, .op6XKK, .op7XKK, .opCXKK], ∀ x kk, decodeWord op = .ok (form x kk) →
      x = (fieldsOf op).x ∧ kk = (fieldsOf op).kk) ∧
    (∀ form ∈ [Instr.op5XY0, .op8XY0, .op8XY1, .op8XY2, .op8XY3, .op8XY4, .op8XY5, .op8XY6, .op8XY7, .op8XYE, .op9XY0],
      ∀ x y, decodeWord op = .ok (form x y) → x = (fieldsOf op).x ∧ y = (fieldsOf op).y) ∧
    (∀ x y n, decodeWord op = .ok (.opDXYN x y n) → x = (fieldsOf op).x ∧ y = (fieldsOf op).y ∧ n = (fieldsOf op).n) ∧
    (∀ form ∈ [Instr.opEX9E, .opEXA1, .opFX07, .opFX0A, .opFX15, .opFX18, .opFX1E, .opFX29, .opFX33, .opFX55, .opFX65],
      ∀ x, decodeWord op = .ok (form x) → x = (fieldsOf op).x)) ∧
  ∀ op : Word,
    (fieldsOf op).t.toNat = op.toNat / 4096 ∧
    (fieldsOf op).x.val = op.toNat / 256 % 16 ∧
    (fieldsOf op).y.val = op.toNat / 16 % 16 ∧
    (fieldsOf op).n.toNat = op.toNat % 16 ∧
    (fieldsOf op).kk.toNat = op.toNat % 256 ∧
    (fieldsOf op).nnn.toNat = op.toNat % 4096 ∧
    (fieldsOf op).kk.toNat = 16 * (fieldsOf op).y.val + (fieldsOf op).n.toNat ∧
    (fieldsOf op).nnn.toNat = 256 * (fieldsOf op).x.val + (fieldsOf op).kk.toNat

/-- R64: a word decodes to an instruction of a row exactly when `op & mask = match`, and no word matches two rows. -/
def Obligations.WordDecodesToARowExactlyWhenItMatches : Prop :=
  (∀ (op : Word) (i : Instr), decodeWord op = .ok i → i.row.accepts op = true) ∧
  (∀ (op : Word) (i : Instr), i.row.accepts op = true → ∃ j, decodeWord op = .ok j ∧ j.row = i.row) ∧
  (∀ (op : Word) (i j : Instr), i.row.accepts op = true → j.row.accepts op = true → i.row = j.row)

/-- Every instruction, with every operand at every value, is read back from the bytes that encode it, and the bytes after it are
left over. -/
def Obligations.DecodeOfEncodeIsTheInstruction : Prop :=
  ∀ (i : Instr) (rest : List Byte), decode (encode i ++ rest) = .ok (i, rest)

/-- Each word has one meaning: the word of the instruction read from a word is that word, so no bit of it is dropped. -/
def Obligations.EncodeOfDecodeIsTheWord : Prop :=
  ∀ (op : Word) (i : Instr), decodeWord op = .ok i → encodeWord i = op

/-- The unknown encodings are exactly the words of 30_encoding section 3, and are rejected with their word (strict matching: the
spec's own decision D12). -/
def Obligations.UnknownEncodingsAreTheListedWords : Prop :=
  ∀ op : Word,
    decodeWord op = .error (.unknown op) ↔
      (op.toNat / 4096 = 0x0 ∧ op ≠ 0x00E0 ∧ op ≠ 0x00EE) ∨
      (op.toNat / 4096 = 0x5 ∧ op.toNat % 16 ≠ 0) ∨
      (op.toNat / 4096 = 0x8 ∧ op.toNat % 16 ∈ [0x8, 0x9, 0xA, 0xB, 0xC, 0xD, 0xF]) ∨
      (op.toNat / 4096 = 0x9 ∧ op.toNat % 16 ≠ 0) ∨
      (op.toNat / 4096 = 0xE ∧ op.toNat % 256 ∉ [0x9E, 0xA1]) ∨
      (op.toNat / 4096 = 0xF ∧ op.toNat % 256 ∉ [0x07, 0x0A, 0x15, 0x18, 0x1E, 0x29, 0x33, 0x55, 0x65])

/-! ### Memory (20_memory) -/

/-- R44: the fetched word is `mem[pc] * 256 + mem[pc+1]`. -/
def Obligations.FetchIsBigEndian : Prop :=
  ∀ s : State, s.pc.toNat ≤ 4094 →
    s.fetchWord.toNat = (s.mem.read s.pc.toNat).toNat * 256 + (s.mem.read (s.pc.toNat + 1)).toNat

/-- A read returns the last byte written there, and a write changes no other byte; in every memory, canonical or not. -/
def Obligations.MemoryReadsTheLastWrite : Prop :=
  ∀ (m : Memory) (a : Nat) (b : Byte),
    (m.write a b).read a = b ∧ ∀ a', a' ≠ a → (m.write a b).read a' = m.read a'

/-- Two memories in the canonical form that hold the same bytes are the same data (model's choice, log entry 2). -/
def Obligations.CanonicalMemoriesWithEqualBytesAreEqual : Prop :=
  ∀ m m' : Memory, m.wf = true → m'.wf = true → (∀ a, m.read a = m'.read a) → m = m'

/-- A stored instruction is what the next fetch at its address reads: FX55 with X at least 1 puts V0 and V1 where a fetch at `I` takes
them as a word (self-modifying code, 20_memory section 4). -/
def Obligations.StoredBytesAreFetchedNext : Prop :=
  ∀ (s : State) (x : RegIdx), 1 ≤ x.val → s.i.toNat + x.val ≤ 4095 →
    ∃ t, exec (.opFX55 x) s = .next t ∧
      (t.setPc s.i).fetchWord.toNat = (s.reg 0).toNat * 256 + (s.reg 1).toNat

/-! ### The tick (40_tick) -/

/-- A tick that begins Running with `pc` in range runs the instruction its word decodes to, on the latches of this tick, and then
counts the timers down unless the instruction latched a fault (the place of the countdown: the spec's own decision D2, log entry 12; how
the tick takes its latches, `sampleKeys`: model's choice, log entry 4). -/
def Obligations.StepRunsTheDecodedInstruction : Prop :=
  ∀ (s u : State) (i : Instr), s.Running → s.pc.toNat ≤ 0xFFE →
    decode [s.mem.read s.pc.toNat, s.mem.read (s.pc.toNat + 1)] = .ok (i, []) →
    exec i s.sampleKeys = .next u →
    step s = .next (if u.fault.isSome then u else u.countdown)

/-- An unknown encoding gives one notice, `pc + 2` and the countdown, and nothing else (the spec's own decisions D12,
D13; the list of notices and the sampling of the latches: model's choice, log entries 6 and 4). -/
def Obligations.UnknownEncodingOnlyNotifiesAndAdvances : Prop :=
  ∀ (s : State) (e : DecodeError), s.Running → s.pc.toNat ≤ 0xFFE → decodeWord s.fetchWord = .error e →
    ∃ t, step s = .next t ∧
      t = { s.sampleKeys with diag := ⟨s.fetchWord, s.pc⟩ :: s.diag, pc := s.pc + 2, dt := t.dt, st := t.st } ∧
      t.pc.toNat = s.pc.toNat + 2 ∧ t.dt.toNat = s.dt.toNat - 1 ∧ t.st.toNat = s.st.toNat - 1

/-- A Running tick with `pc` above 0xFFE latches FetchOutOfRange and does nothing else (the spec's own decision D4; the record's
absent `addr` is log entry 17; the sampling of the latches: log entry 4). -/
def Obligations.FetchOutOfRangeFaults : Prop :=
  ∀ s : State, s.Running → 0xFFE < s.pc.toNat →
    step s = .next { s.sampleKeys with fault := some ⟨.fetchOutOfRange, s.pc, none, none⟩ }

/-- A faulted core's tick changes nothing but the latches the host writes (the spec's own decision D3; the host's list
`keyInputs`: model's choice, log entry 4). -/
def Obligations.FaultedTickIsTheIdentity : Prop :=
  ∀ (s : State) (r : FaultRecord), s.fault = some r → step s = .next s.sampleKeys ∧
    s.sampleKeys = { s with key := s.sampleKeys.key, keyInputs := s.keyInputs.tail }

/-- R82: a tick that begins WaitingForKey changes nothing while no latch is true; with a latch true it writes the index of a key that
is down to `V[wait_reg]` and clears `waiting`: no fetch, no pc change, no countdown. The latches are those of this tick
(`sampleKeys`; the form is the model's choice, log entry 4). -/
def Obligations.WaitingTickResolvesOnAKeyDown : Prop :=
  ∀ s : State, s.fault = none → s.waiting = true →
    ((∀ j : RegIdx, s.sampleKeys.key[j] = false) → step s = .next s.sampleKeys) ∧
    ((∃ j : RegIdx, s.sampleKeys.key[j] = true) →
      ∃ (j : RegIdx) (t : State), s.sampleKeys.key[j] = true ∧ step s = .next t ∧
        t = { s.sampleKeys with v := t.v, waiting := false } ∧
        (t.reg s.waitReg).toNat = j.val ∧ ∀ k, k ≠ s.waitReg → t.reg k = s.reg k)

/-- Of several keys down the least is written (the spec's own decision D14, log entry 11; the sampling of the latches: log entry 4). -/
def Obligations.WaitingTickWritesTheLeastKey : Prop :=
  ∀ (s : State) (j : RegIdx), s.fault = none → s.waiting = true → s.sampleKeys.key[j] = true →
    (∀ k, k < j → s.sampleKeys.key[k] = false) →
    ∃ t, step s = .next t ∧ (t.reg s.waitReg).toNat = j.val ∧ t.waiting = false

/-- The countdown follows the instruction in its own tick: each timer ends one below what the instruction left, and stops at 0 (the
spec's own decision D2, log entry 12). So FX07 reads `dt` before its tick's countdown, and the tick of FX15 or FX18 leaves its timer one
below `V[X]`, or 0. (The sampling of the latches: log entry 4.) -/
def Obligations.CountdownFollowsTheInstruction : Prop :=
  (∀ (s u : State) (i : Instr), s.Running → s.pc.toNat ≤ 0xFFE → decodeWord s.fetchWord = .ok i →
    exec i s.sampleKeys = .next u → u.fault = none →
    ∃ t, step s = .next t ∧ t = { u with dt := t.dt, st := t.st } ∧
      t.dt.toNat = u.dt.toNat - 1 ∧ t.st.toNat = u.st.toNat - 1) ∧
  ∀ (s : State) (x : RegIdx), s.Running → s.pc.toNat ≤ 0xFFE →
    (decodeWord s.fetchWord = .ok (.opFX07 x) →
      ∃ t, step s = .next t ∧ t.reg x = s.dt ∧ t.dt.toNat = s.dt.toNat - 1 ∧ t.st.toNat = s.st.toNat - 1) ∧
    (decodeWord s.fetchWord = .ok (.opFX15 x) →
      ∃ t, step s = .next t ∧ t.dt.toNat = (s.reg x).toNat - 1 ∧ t.st.toNat = s.st.toNat - 1) ∧
    (decodeWord s.fetchWord = .ok (.opFX18 x) →
      ∃ t, step s = .next t ∧ t.st.toNat = (s.reg x).toNat - 1 ∧ t.dt.toNat = s.dt.toNat - 1)

/-- Every tick from every state answers a next state: nothing in the core ends a run but the host. -/
def Obligations.EveryStepAnswersANextState : Prop :=
  ∀ s : State, ∃ t, step s = .next t

/-! ### Faults (60_exceptions) -/

/-- The latch holds the first fault: no tick clears or overwrites it (the spec's own decision D3). -/
def Obligations.FaultLatchIsNeverClearedOrOverwritten : Prop :=
  ∀ (s t : State) (r : FaultRecord), s.fault = some r → ∀ k, Sys2Proof.core.run k s = .next t → t.fault = some r

/-- A safe run has not faulted on the way: cut anywhere, both parts are safe runs (the spec's own decision D3). -/
def Obligations.SafeRunsNeverFaultOnTheWay : Prop :=
  ∀ (j k : Nat) (s t : State), SafeRun (j + k) s t → ∃ u, SafeRun j s u ∧ SafeRun k u t

/-- A tick that raises a fault changes no state except the latch, whose record holds the `pc` of the tick's start and the fetched word
(absent for FetchOutOfRange) (the spec's own decision D3; the sampling of the latches: log entry 4). -/
def Obligations.FaultingTickChangesOnlyTheLatch : Prop :=
  ∀ (s t : State) (r : FaultRecord), s.fault = none → step s = .next t → t.fault = some r →
    t = { s.sampleKeys with fault := some r } ∧ r.pc = s.pc ∧
      r.opcode = if r.cause = .fetchOutOfRange then none else some s.fetchWord

/-- A Running tick faults exactly under the conditions of the table of causes, with that cause, in the order of checks the spec gives
(the spec's own decisions D3 to D6). -/
def Obligations.RunningTickFaultsExactlyAsListed : Prop :=
  ∀ s : State, s.Running → ∃ t, step s = .next t ∧ t.fault.map (·.cause) = tickFaultOf s

/-- 2NNN with a full stack and 00EE with an empty one latch their faults and do nothing else (the spec's own decision D5). -/
def Obligations.StackFaultsAreTaken : Prop :=
  ∀ (s : State) (nnn : Addr12), s.fault = none →
    (s.sp.val = 16 → exec (.op2NNN nnn) s =
      .next { s with fault := some ⟨.stackOverflow, s.pc, some (encodeWord (.op2NNN nnn)), none⟩ }) ∧
    (s.sp.val = 0 → exec .op00EE s =
      .next { s with fault := some ⟨.stackUnderflow, s.pc, some 0x00EE, none⟩ })

/-- DXYN, FX33, FX55 and FX65 that would reach above 4095 latch MemOutOfRange with the lowest such address and do nothing else, no
partial effect (the spec's own decision D4). -/
def Obligations.MemoryFaultsAreTakenWhole : Prop :=
  ∀ (s : State) (x y : RegIdx) (n : Nibble), s.fault = none →
    (0 < n.toNat → 4095 < s.i.toNat + n.toNat - 1 → exec (.opDXYN x y n) s =
      .next { s with fault := some ⟨.memOutOfRange, s.pc, some (encodeWord (.opDXYN x y n)), some (max s.i.toNat 4096)⟩ }) ∧
    (4095 < s.i.toNat + 2 → exec (.opFX33 x) s =
      .next { s with fault := some ⟨.memOutOfRange, s.pc, some (encodeWord (.opFX33 x)), some (max s.i.toNat 4096)⟩ }) ∧
    (4095 < s.i.toNat + x.val → exec (.opFX55 x) s =
      .next { s with fault := some ⟨.memOutOfRange, s.pc, some (encodeWord (.opFX55 x)), some (max s.i.toNat 4096)⟩ }) ∧
    (4095 < s.i.toNat + x.val → exec (.opFX65 x) s =
      .next { s with fault := some ⟨.memOutOfRange, s.pc, some (encodeWord (.opFX65 x)), some (max s.i.toNat 4096)⟩ })

/-! ### Reset and invariants (70_reset, 10_state) -/

/-- The state after `reset(PROGRAM, FONT)`, of every program and every font, as the table of 10_state section 12 gives it (wait_reg
and reset as an event: the spec's own decision D21; the fault latch: D3); the memory is `ResetMemoryHoldsFontAndProgram`. `State.reset`
is that state for the empty program and the default font (model's choice, log entry 3; the font's bytes, log entry 2). -/
def Obligations.ResetStateHasTheListedValues : Prop :=
  (∀ (program : List Byte) (font : Vector Byte 80),
    let t := State.resetWith program font
    (∀ x, t.reg x = 0) ∧ t.i = 0 ∧ t.pc.toNat = 0x200 ∧ (∀ k : Fin 16, t.stack[k] = 0) ∧ t.sp.val = 0 ∧
    t.dt = 0 ∧ t.st = 0 ∧
    (∀ r c, t.disp.pixel r c = false) ∧ (∀ k : RegIdx, t.key[k] = false) ∧
    t.waiting = false ∧ t.waitReg = 0 ∧ t.fault = none ∧ t.status = .running) ∧
  State.reset = State.resetWith [] defaultFont

/-- R42: after reset the font is at [0,80), the first 3584 bytes of the program at 0x200, and every other byte is 0. -/
def Obligations.ResetMemoryHoldsFontAndProgram : Prop :=
  ∀ (program : List Byte) (font : Vector Byte 80) (a : Nat), a < 4096 →
    (State.resetWith program font).mem.read a =
      if h : a < 80 then font[a]
      else if 0x200 ≤ a ∧ a - 0x200 < min program.length 3584 then program.getD (a - 0x200) 0
      else 0

/-- The invariant of every tick boundary holds at reset (its clause of canonical memory is the model's choice, log entry 2;
`State.reset` stands for the empty program and the default font, log entry 3). -/
def Obligations.InvariantHoldsAtReset : Prop := State.reset.Inv

/-- The invariant holds after a reset with any program and any font (its clause of canonical memory is the model's choice, log
entry 2). -/
def Obligations.InvariantHoldsAfterEveryReset : Prop :=
  ∀ (program : List Byte) (font : Vector Byte 80), (State.resetWith program font).Inv

/-- From every state that meets it, a tick leads to a state that meets the invariant: canonical memory, `pc` at most 0x10FE, the stack
in use holding addresses of calls, a faulted core not waiting (10_state section 3; it rests on the spec's own decisions D3, D4, D5 and
D19, and on the canonical form, log entry 2). -/
def Obligations.EveryStepKeepsTheInvariant : Prop :=
  ∀ s t : State, s.Inv → step s = .next t → t.Inv

/-! ### Control transfer (41_flow) -/

/-- R101: 1NNN, the word `0x1000 | NNN`, sets `pc` to NNN and nothing else. -/
def Obligations.JumpSetsPc : Prop :=
  ∀ (s : State) (nnn : Addr12), (encodeWord (.op1NNN nnn)).toNat = 0x1000 + nnn.toNat ∧
    ∃ t, exec (.op1NNN nnn) s = .next t ∧ t = { s with pc := t.pc } ∧ t.pc.toNat = nnn.toNat

/-- 2NNN with room on the stack pushes its own address and jumps; no other slot and nothing else changes (the stack convention is the
spec's own decision D5). -/
def Obligations.CallPushesItsOwnAddress : Prop :=
  ∀ (s : State) (nnn : Addr12), s.sp.val < 16 →
    ∃ t, exec (.op2NNN nnn) s = .next t ∧ t = { s with pc := t.pc, sp := t.sp, stack := t.stack } ∧
      t.pc.toNat = nnn.toNat ∧ t.sp.val = s.sp.val + 1 ∧
      ∀ k : Fin 16, t.stack[k] = if k.val = s.sp.val then s.pc else s.stack[k]

/-- 00EE with an entry on the stack goes to the popped address plus 2; the slot keeps its value (the stack convention is the spec's own
decision D5). -/
def Obligations.ReturnGoesPastTheCall : Prop :=
  ∀ (s : State) (k : Fin 16), s.sp.val = k.val + 1 →
    ∃ t, exec .op00EE s = .next t ∧ t = { s with pc := t.pc, sp := t.sp } ∧
      t.sp.val = k.val ∧ t.pc.toNat = (s.stack[k].toNat + 2) % 65536

/-- A return undoes a call: after 2NNN and then 00EE from wherever the subroutine stands, `pc` is the word after the call, `sp` is
restored, and of the rest only the slot used for the call may differ (it rests on the spec's own decisions D5 and D25). -/
def Obligations.ReturnUndoesTheCall : Prop :=
  ∀ (s : State) (nnn : Addr12) (p : Word), s.sp.val < 16 →
    ∃ t u, exec (.op2NNN nnn) s = .next t ∧ exec .op00EE (t.setPc p) = .next u ∧
      u = { s with pc := s.pc + 2, stack := u.stack } ∧
      ∀ k : Fin 16, k.val ≠ s.sp.val → u.stack[k] = s.stack[k]

/-- BNNN sets `pc` to NNN + V0, not reduced to 12 bits, and nothing else (that the sum never wraps is the spec's own decision D19). -/
def Obligations.JumpWithOffsetAddsV0 : Prop :=
  ∀ (s : State) (nnn : Addr12), ∃ t, exec (.opBNNN nnn) s = .next t ∧ t = { s with pc := t.pc } ∧
    t.pc.toNat = nnn.toNat + (s.reg 0).toNat

/-! ### Skips (42_skip) -/

/-- R110 to R113: 3XKK, 4XKK, 5XY0 and 9XY0 add 4 to `pc` when their condition holds and 2 when not, and change nothing else; their
words. -/
def Obligations.CompareSkips : Prop :=
  ∀ (s : State) (x y : RegIdx) (kk : Byte),
    (encodeWord (.op3XKK x kk)).toNat = 0x3000 + 256 * x.val + kk.toNat ∧
    (encodeWord (.op4XKK x kk)).toNat = 0x4000 + 256 * x.val + kk.toNat ∧
    (encodeWord (.op5XY0 x y)).toNat = 0x5000 + 256 * x.val + 16 * y.val ∧
    (encodeWord (.op9XY0 x y)).toNat = 0x9000 + 256 * x.val + 16 * y.val ∧
    exec (.op3XKK x kk) s = .next { s with pc := if (s.reg x).toNat = kk.toNat then s.pc + 4 else s.pc + 2 } ∧
    exec (.op4XKK x kk) s = .next { s with pc := if (s.reg x).toNat ≠ kk.toNat then s.pc + 4 else s.pc + 2 } ∧
    exec (.op5XY0 x y) s = .next { s with pc := if (s.reg x).toNat = (s.reg y).toNat then s.pc + 4 else s.pc + 2 } ∧
    exec (.op9XY0 x y) s = .next { s with pc := if (s.reg x).toNat ≠ (s.reg y).toNat then s.pc + 4 else s.pc + 2 }

/-- EX9E and EXA1 test the latch `key[V[X]]` when `V[X]` is at most 15 and change only `pc`. -/
def Obligations.KeySkipsTestTheLatch : Prop :=
  ∀ (s : State) (x k : RegIdx), (s.reg x).toNat = k.val →
    exec (.opEX9E x) s = .next { s with pc := if s.key[k] = true then s.pc + 4 else s.pc + 2 } ∧
    exec (.opEXA1 x) s = .next { s with pc := if s.key[k] = true then s.pc + 2 else s.pc + 4 }

/-- EX9E and EXA1 with `V[X]` above 15 latch KeyOutOfRange with `V[X]` and do nothing else (the spec's own decision D6). -/
def Obligations.KeyFaultsAreTaken : Prop :=
  ∀ (s : State) (x : RegIdx), s.fault = none → 15 < (s.reg x).toNat →
    exec (.opEX9E x) s =
      .next { s with fault := some ⟨.keyOutOfRange, s.pc, some (encodeWord (.opEX9E x)), some (s.reg x).toNat⟩ } ∧
    exec (.opEXA1 x) s =
      .next { s with fault := some ⟨.keyOutOfRange, s.pc, some (encodeWord (.opEXA1 x)), some (s.reg x).toNat⟩ }

/-! ### Load and ALU (43_alu) -/

/-- R120, R122 to R125: 6XKK (the word `0x6000 | X<<8 | KK`), 8XY0, 8XY1, 8XY2 and 8XY3 write `V[X]` alone, no flag, and advance `pc`
by 2. -/
def Obligations.LoadsAndLogicWriteVxAlone : Prop :=
  ∀ (s : State) (x y : RegIdx) (kk : Byte), (encodeWord (.op6XKK x kk)).toNat = 0x6000 + 256 * x.val + kk.toNat ∧
    ∀ c ∈ [(Instr.op6XKK x kk, kk), (.op8XY0 x y, s.reg y), (.op8XY1 x y, s.reg x ||| s.reg y),
      (.op8XY2 x y, s.reg x &&& s.reg y), (.op8XY3 x y, s.reg x ^^^ s.reg y)],
      ∃ t, exec c.1 s = .next t ∧ t = { s with v := t.v, pc := s.pc + 2 } ∧
        t.reg x = c.2 ∧ ∀ k, k ≠ x → t.reg k = s.reg k

/-- R121: 7XKK, the word `0x7000 | X<<8 | KK`, writes `(V[X] + KK) mod 256` to `V[X]`, no flag, and advances `pc` by 2. -/
def Obligations.AddImmediateSetsNoFlag : Prop :=
  ∀ (s : State) (x : RegIdx) (kk : Byte), (encodeWord (.op7XKK x kk)).toNat = 0x7000 + 256 * x.val + kk.toNat ∧
    ∃ t, exec (.op7XKK x kk) s = .next t ∧ t = { s with v := t.v, pc := s.pc + 2 } ∧
      (t.reg x).toNat = ((s.reg x).toNat + kk.toNat) % 256 ∧ ∀ k, k ≠ x → t.reg k = s.reg k

/-- R126: 8XY4. The sum modulo 256 goes to `V[X]`, then the carry to VF; no other register changes (that the flag comes last, seen
when X is 15, is also the spec's own decision D7). -/
def Obligations.AddWithCarryFlag : Prop :=
  ∀ (s : State) (x y : RegIdx),
    ∃ t, exec (.op8XY4 x y) s = .next t ∧ t = { s with v := t.v, pc := s.pc + 2 } ∧
      (x ≠ 15 → (t.reg x).toNat = ((s.reg x).toNat + (s.reg y).toNat) % 256) ∧
      (t.reg 15).toNat = (if (s.reg x).toNat + (s.reg y).toNat > 255 then 1 else 0) ∧
      ∀ k, k ≠ x → k ≠ 15 → t.reg k = s.reg k

/-- R127 and R129: 8XY5 and 8XY7. The difference modulo 256 goes to `V[X]`, then not-borrow to VF (with X = 15 only the flag is seen:
also the spec's own decision D7). -/
def Obligations.SubtractionsWithNotBorrowFlag : Prop :=
  ∀ (s : State) (x y : RegIdx),
    (∃ t, exec (.op8XY5 x y) s = .next t ∧ t = { s with v := t.v, pc := s.pc + 2 } ∧
      (x ≠ 15 → ((t.reg x).toNat : Int) = ((s.reg x).toNat - (s.reg y).toNat : Int) % 256) ∧
      (t.reg 15).toNat = (if (s.reg x).toNat ≥ (s.reg y).toNat then 1 else 0) ∧
      ∀ k, k ≠ x → k ≠ 15 → t.reg k = s.reg k) ∧
    (∃ t, exec (.op8XY7 x y) s = .next t ∧ t = { s with v := t.v, pc := s.pc + 2 } ∧
      (x ≠ 15 → ((t.reg x).toNat : Int) = ((s.reg y).toNat - (s.reg x).toNat : Int) % 256) ∧
      (t.reg 15).toNat = (if (s.reg y).toNat ≥ (s.reg x).toNat then 1 else 0) ∧
      ∀ k, k ≠ x → k ≠ 15 → t.reg k = s.reg k)

/-- R128 and R130: 8XY6 and 8XYE shift `V[X]` in place by one, whatever Y is, then the bit shifted out goes to VF (with X = 15 only the
flag is seen: also the spec's own decision D7). -/
def Obligations.ShiftsByOneWithTheBitShiftedOut : Prop :=
  ∀ (s : State) (x y : RegIdx),
    (∃ t, exec (.op8XY6 x y) s = .next t ∧ t = { s with v := t.v, pc := s.pc + 2 } ∧
      (x ≠ 15 → (t.reg x).toNat = (s.reg x).toNat / 2) ∧ (t.reg 15).toNat = (s.reg x).toNat % 2 ∧
      ∀ k, k ≠ x → k ≠ 15 → t.reg k = s.reg k) ∧
    (∃ t, exec (.op8XYE x y) s = .next t ∧ t = { s with v := t.v, pc := s.pc + 2 } ∧
      (x ≠ 15 → (t.reg x).toNat = (s.reg x).toNat * 2 % 256) ∧ (t.reg 15).toNat = (s.reg x).toNat / 128 ∧
      ∀ k, k ≠ x → k ≠ 15 → t.reg k = s.reg k)

/-- With X = 15 the five flag writers of family 8 leave the flag in VF and the result is lost (the spec's own decision D7, log entry 8;
the table of 43_alu section 3). -/
def Obligations.FlagSurvivesInVfWhenXIsFifteen : Prop :=
  ∀ (s : State) (y : RegIdx),
    ∀ c ∈ [(Instr.op8XY4 15 y, decide ((s.reg 15).toNat + (s.reg y).toNat > 255)),
      (.op8XY5 15 y, decide ((s.reg 15).toNat ≥ (s.reg y).toNat)),
      (.op8XY7 15 y, decide ((s.reg y).toNat ≥ (s.reg 15).toNat)),
      (.op8XY6 15 y, decide ((s.reg 15).toNat % 2 = 1)),
      (.op8XYE 15 y, decide ((s.reg 15).toNat / 128 = 1))],
      ∃ t, exec c.1 s = .next t ∧ t = { s with v := t.v, pc := s.pc + 2 } ∧
        (t.reg 15).toNat = (if c.2 then 1 else 0) ∧ ∀ k, k ≠ 15 → t.reg k = s.reg k

/-- CXKK writes the byte on `rnd` ANDed with KK to `V[X]`; the byte is what the host interface lists, else a free value, and is used
once (the spec's own decision D16; model's choice of its form, log entry 5). It holds for every value of `Config.rndByte`. -/
def Obligations.RandomByteIsMaskedAndUsedOnce : Prop :=
  ∀ (s : State) (x : RegIdx) (kk : Byte),
    ∃ t, exec (.opCXKK x kk) s = .next t ∧
      t = { s with v := t.v, pc := s.pc + 2, rndInputs := s.rndInputs.tail, draws := s.draws + 1 } ∧
      (∀ b rest, s.rndInputs = b :: rest → t.reg x = b &&& kk) ∧
      (s.rndInputs = [] → t.reg x = Config.rndByte s.draws &&& kk) ∧
      (∀ n, kk.getLsbD n = false → (t.reg x).getLsbD n = false) ∧ ∀ k, k ≠ x → t.reg k = s.reg k

/-! ### Index register and memory (44_index_memory) -/

/-- R140: ANNN, the word `0xA000 | NNN`, sets `I` to NNN and advances `pc` by 2. -/
def Obligations.LoadIndexSetsI : Prop :=
  ∀ (s : State) (nnn : Addr12), (encodeWord (.opANNN nnn)).toNat = 0xA000 + nnn.toNat ∧
    ∃ t, exec (.opANNN nnn) s = .next t ∧ t = { s with i := t.i, pc := s.pc + 2 } ∧ t.i.toNat = nnn.toNat

/-- FX1E adds `V[X]` to `I` modulo 65536 and then writes the carry out of bit 15 to VF (the reading of the flag is the spec's own
decision D9, log entry 13; the flag last when X is 15 is D7). -/
def Obligations.AddToIndexWithCarryFlag : Prop :=
  ∀ (s : State) (x : RegIdx),
    ∃ t, exec (.opFX1E x) s = .next t ∧ t = { s with v := t.v, i := t.i, pc := s.pc + 2 } ∧
      t.i.toNat = (s.i.toNat + (s.reg x).toNat) % 65536 ∧
      (t.reg 15).toNat = (if s.i.toNat + (s.reg x).toNat > 0xFFFF then 1 else 0) ∧
      ∀ k, k ≠ 15 → t.reg k = s.reg k

/-- FX29 sets `I` to five times `V[X]` for every byte, without wrapping or masking (the spec's own decision D10, log entry 14). -/
def Obligations.FontAddressIsFiveTimesVx : Prop :=
  ∀ (s : State) (x : RegIdx),
    ∃ t, exec (.opFX29 x) s = .next t ∧ t = { s with i := t.i, pc := s.pc + 2 } ∧ t.i.toNat = 5 * (s.reg x).toNat

/-- FX33 in range stores the three decimal digits of `V[X]` at `I`, `I + 1`, `I + 2`; every other byte, `I` and every register stay
(the range is the spec's own decision D4; `I` unchanged is D11). -/
def Obligations.BcdStoresThreeDigits : Prop :=
  ∀ (s : State) (x : RegIdx), s.i.toNat + 2 ≤ 4095 →
    ∃ t, exec (.opFX33 x) s = .next t ∧ t = { s with mem := t.mem, pc := s.pc + 2 } ∧
      (t.mem.read s.i.toNat).toNat = (s.reg x).toNat / 100 ∧
      (t.mem.read (s.i.toNat + 1)).toNat = (s.reg x).toNat / 10 % 10 ∧
      (t.mem.read (s.i.toNat + 2)).toNat = (s.reg x).toNat % 10 ∧
      ∀ a, a < s.i.toNat ∨ s.i.toNat + 2 < a → t.mem.read a = s.mem.read a

/-- FX55 in range stores `V[0]` to `V[X]` at `I` to `I + X`; every other byte, `I` and every register stay (the range is the spec's own
decision D4; `I` unchanged is D11). -/
def Obligations.StoreRegistersStoresTheBlock : Prop :=
  ∀ (s : State) (x : RegIdx), s.i.toNat + x.val ≤ 4095 →
    ∃ t, exec (.opFX55 x) s = .next t ∧ t = { s with mem := t.mem, pc := s.pc + 2 } ∧
      (∀ k, k ≤ x → t.mem.read (s.i.toNat + k.val) = s.reg k) ∧
      ∀ a, a < s.i.toNat ∨ s.i.toNat + x.val < a → t.mem.read a = s.mem.read a

/-- FX65 in range loads `mem[I]` to `mem[I + X]` into `V[0]` to `V[X]`; the registers above X, `I` and all of memory stay (the range is
the spec's own decision D4; `I` unchanged is D11). -/
def Obligations.LoadRegistersLoadsTheBlock : Prop :=
  ∀ (s : State) (x : RegIdx), s.i.toNat + x.val ≤ 4095 →
    ∃ t, exec (.opFX65 x) s = .next t ∧ t = { s with v := t.v, pc := s.pc + 2 } ∧
      (∀ k, k ≤ x → t.reg k = s.mem.read (s.i.toNat + k.val)) ∧ ∀ k, x < k → t.reg k = s.reg k

/-! ### Display (45_display) -/

/-- R150: 00E0, the single word 0x00E0, makes every pixel false and changes nothing else but `pc`. -/
def Obligations.ClearMakesEveryPixelFalse : Prop :=
  encodeWord .op00E0 = 0x00E0 ∧ ∀ s : State, ∃ t, exec .op00E0 s = .next t ∧ t = { s with disp := t.disp, pc := s.pc + 2 } ∧
    ∀ r c, t.disp.pixel r c = false

/-- DXYN in range is the order-free drawing: with the operands of the start, each of the N by 8 pixels is XORed with its sprite bit, every
other pixel stays, VF is 1 exactly when a sprite bit of 1 met a true pixel of the old display, and nothing else changes but `pc` (operands
read first: the spec's own decision D8, log entry 9; the range: D4). -/
def Obligations.DrawIsTheOrderFreeXor : Prop :=
  ∀ (s : State) (x y : RegIdx) (n : Nibble), n.toNat = 0 ∨ s.i.toNat + n.toNat - 1 ≤ 4095 →
    ∃ t, exec (.opDXYN x y n) s = .next t ∧ t = { s with v := t.v, disp := t.disp, pc := s.pc + 2 } ∧
      (∀ r c, r < n.toNat → c < 8 →
        t.disp.pixel (wrapRow ((s.reg y).toNat + r)) (wrapCol ((s.reg x).toNat + c)) =
          (s.disp.pixel (wrapRow ((s.reg y).toNat + r)) (wrapCol ((s.reg x).toNat + c)) ^^
            (s.mem.read (s.i.toNat + r)).getLsbD (7 - c))) ∧
      (∀ row col, (∀ r c, r < n.toNat → c < 8 →
          ¬(wrapRow ((s.reg y).toNat + r) = row ∧ wrapCol ((s.reg x).toNat + c) = col)) →
        t.disp.pixel row col = s.disp.pixel row col) ∧
      ((∃ r c, r < n.toNat ∧ c < 8 ∧ (s.mem.read (s.i.toNat + r)).getLsbD (7 - c) = true ∧
          s.disp.pixel (wrapRow ((s.reg y).toNat + r)) (wrapCol ((s.reg x).toNat + c)) = true) → t.reg 15 = 1) ∧
      ((∀ r c, r < n.toNat → c < 8 → (s.mem.read (s.i.toNat + r)).getLsbD (7 - c) = true →
          s.disp.pixel (wrapRow ((s.reg y).toNat + r)) (wrapCol ((s.reg x).toNat + c)) = false) → t.reg 15 = 0) ∧
      ∀ k, k ≠ 15 → t.reg k = s.reg k

/-- Drawing the same sprite twice at one place restores the display, and from a clear display the second draw reports a collision exactly
when the sprite has a bit of 1 (coordinates not in VF, which a draw overwrites; it rests on the spec's own
decisions D4 and D8; why from a clear one: log entry 7). -/
def Obligations.DrawingTwiceRestoresTheDisplay : Prop :=
  ∀ (s : State) (x y : RegIdx) (n : Nibble), x ≠ 15 → y ≠ 15 → n.toNat = 0 ∨ s.i.toNat + n.toNat - 1 ≤ 4095 →
    ∃ t u, exec (.opDXYN x y n) s = .next t ∧ exec (.opDXYN x y n) t = .next u ∧ u.disp = s.disp ∧
      (s.disp = Display.clear →
        ((∃ r c, r < n.toNat ∧ c < 8 ∧ (s.mem.read (s.i.toNat + r)).getLsbD (7 - c) = true) → u.reg 15 = 1) ∧
        ((∀ r c, r < n.toNat → c < 8 → (s.mem.read (s.i.toNat + r)).getLsbD (7 - c) = false) → u.reg 15 = 0))

/-! ### Timers and key wait (46_timer_key) -/

/-- R160, R162, R163: FX07 moves `dt` to `V[X]`, FX15 and FX18 move `V[X]` to `dt` and to `st`; no flag, nothing else but `pc`; their
words. What the countdown of the same tick then leaves is `CountdownFollowsTheInstruction`. -/
def Obligations.TimerMoves : Prop :=
  ∀ (s : State) (x : RegIdx),
    (encodeWord (.opFX07 x)).toNat = 0xF007 + 256 * x.val ∧ (encodeWord (.opFX15 x)).toNat = 0xF015 + 256 * x.val ∧
    (encodeWord (.opFX18 x)).toNat = 0xF018 + 256 * x.val ∧
    (∃ t, exec (.opFX07 x) s = .next t ∧ t = { s with v := t.v, pc := s.pc + 2 } ∧
      t.reg x = s.dt ∧ ∀ k, k ≠ x → t.reg k = s.reg k) ∧
    exec (.opFX15 x) s = .next { s with dt := s.reg x, pc := s.pc + 2 } ∧
    exec (.opFX18 x) s = .next { s with st := s.reg x, pc := s.pc + 2 }

/-- FX0A sets `waiting` and `wait_reg` and advances `pc`, in its own tick; the register is written by a later tick
(`WaitingTickResolvesOnAKeyDown`) (the advance is in the spec's own decision D15). -/
def Obligations.KeyWaitIsEntered : Prop :=
  ∀ (s : State) (x : RegIdx), s.fault = none →
    ∃ t, exec (.opFX0A x) s = .next t ∧ t = { s with waiting := true, waitReg := x, pc := s.pc + 2 } ∧
      t.status = .waitingForKey

/-! ### Rules of the whole machine -/

/-- Who writes what: memory by FX33 and FX55, the display by 00E0 and DXYN, `I` by ANNN, FX1E and FX29, the stack by 2NNN and 00EE, `dt`
by FX15, `st` by FX18, the wait state by FX0A; the key latches by no instruction (10_state R34). The last clauses speak of the model's
own fields (model's choice): the list and the counter of random bytes, changed by CXKK alone (log entry 5), and the host's list of latch
patterns (log entry 4) and the notices (log entry 6), by no instruction. -/
def Obligations.OnlyTheNamedInstructionsWriteEachState : Prop :=
  ∀ (i : Instr) (s t : State), exec i s = .next t →
    ((∀ x, i ≠ .opFX33 x) → (∀ x, i ≠ .opFX55 x) → ∀ a, t.mem.read a = s.mem.read a) ∧
    (i ≠ .op00E0 → (∀ x y n, i ≠ .opDXYN x y n) → t.disp = s.disp) ∧
    ((∀ n, i ≠ .opANNN n) → (∀ x, i ≠ .opFX1E x) → (∀ x, i ≠ .opFX29 x) → t.i = s.i) ∧
    ((∀ n, i ≠ .op2NNN n) → t.stack = s.stack) ∧
    ((∀ n, i ≠ .op2NNN n) → i ≠ .op00EE → t.sp = s.sp) ∧
    ((∀ x, i ≠ .opFX15 x) → t.dt = s.dt) ∧ ((∀ x, i ≠ .opFX18 x) → t.st = s.st) ∧
    ((∀ x, i ≠ .opFX0A x) → t.waiting = s.waiting ∧ t.waitReg = s.waitReg) ∧
    ((∀ x k, i ≠ .opCXKK x k) → t.rndInputs = s.rndInputs ∧ t.draws = s.draws) ∧
    t.key = s.key ∧ t.keyInputs = s.keyInputs ∧ t.diag = s.diag

/-- Exactly seven instructions write VF as a side effect, each 0 or 1; of the others VF changes only in one whose destination is
`V[15]`. -/
def Obligations.OnlySevenInstructionsWriteAFlag : Prop :=
  ∀ (i : Instr) (s t : State), faultOf i s = none → exec i s = .next t →
    match vfEffect i with
    | .flag => t.reg 15 = 0 ∨ t.reg 15 = 1
    | .destination x => x ≠ 15 → t.reg 15 = s.reg 15
    | .never => t.reg 15 = s.reg 15

/-- An instruction that does not fault and is no jump, call or return leaves `pc` plus 2, or plus 4 for a skip (10_state section 3). -/
def Obligations.PcAdvancesByTwoOrSkips : Prop :=
  ∀ (i : Instr) (s t : State), faultOf i s = none → exec i s = .next t →
    (pcEffect i = .advances → t.pc = s.pc + 2) ∧ (pcEffect i = .skips → t.pc = s.pc + 2 ∨ t.pc = s.pc + 4)

/-- The key latches matter to no instruction but EX9E and EXA1: every other one gives the same result whatever they are (the spec's own
decision D24 makes them an input). -/
def Obligations.KeysMatterOnlyToTheKeySkips : Prop :=
  ∀ (i : Instr) (s t : State) (keys : Keys), (∀ x, i ≠ .opEX9E x) → (∀ x, i ≠ .opEXA1 x) →
    exec i s = .next t → exec i { s with key := keys } = .next { t with key := keys }

/-- Nothing reads the sound timer: two states that differ only in `st` tick to states that differ at most in `st` (10_state section 5;
the spec's own decision D23). -/
def Obligations.SoundTimerIsUnobservable : Prop :=
  ∀ (s t : State) (b : Byte), step s = .next t → ∃ b', step { s with st := b } = .next { t with st := b' }
end

