-- ==== Sys2Proof/Laws/Decode.lean ====
section
/-! SUPPORT. The laws of the decoder and encoder: the bytes of a word, the fields of a word built in each format, and the digits a
word is put together from again. -/

namespace Sys2Proof

/-- The number of two bit strings side by side. -/
theorem toNat_append_mul {m n : Nat} (a : BitVec m) (b : BitVec n) : (a ++ b).toNat = a.toNat * 2 ^ n + b.toNat := by
  rw [BitVec.toNat_append, Nat.shiftLeft_eq, Nat.mul_comm, ← Nat.two_pow_add_eq_or_of_lt b.isLt]

theorem toNat_wordOfBytes (hi lo : Byte) : (wordOfBytes hi lo).toNat = hi.toNat * 256 + lo.toNat :=
  toNat_append_mul hi lo

@[simp] theorem wordOfBytes_hiByte_loByte (op : Word) : wordOfBytes (hiByte op) (loByte op) = op := by
  apply BitVec.eq_of_toNat_eq
  have := op.isLt
  rw [toNat_wordOfBytes]
  simp only [hiByte, loByte, BitVec.extractLsb'_toNat, Nat.shiftRight_eq_div_pow]
  omega

@[simp] theorem decode_two (hi lo : Byte) (rest : List Byte) :
    decode (hi :: lo :: rest) = (decodeWord (wordOfBytes hi lo)).map fun i => (i, rest) := by
  simp only [decode]
  cases decodeWord (wordOfBytes hi lo) <;> rfl

@[simp] theorem nibbleOfReg_regOfNibble (d : Nibble) : nibbleOfReg (regOfNibble d) = d := rfl

@[simp] theorem regOfNibble_nibbleOfReg (x : RegIdx) : regOfNibble (nibbleOfReg x) = x := rfl

@[simp] theorem toNat_nibbleOfReg (x : RegIdx) : (nibbleOfReg x).toNat = x.val := rfl

@[simp] theorem val_regOfNibble (d : Nibble) : (regOfNibble d).val = d.toNat := rfl

/-! ### The numbers of words in each format -/

theorem toNat_wordAddr (t : Nibble) (nnn : Addr12) : (wordAddr t nnn).toNat = t.toNat * 4096 + nnn.toNat :=
  toNat_append_mul t nnn

theorem toNat_wordXKK (t : Nibble) (x : RegIdx) (kk : Byte) :
    (wordXKK t x kk).toNat = t.toNat * 4096 + x.val * 256 + kk.toNat := by
  simp only [wordXKK, toNat_append_mul, toNat_nibbleOfReg]
  omega

theorem toNat_wordXYN (t : Nibble) (x y : RegIdx) (n : Nibble) :
    (wordXYN t x y n).toNat = t.toNat * 4096 + x.val * 256 + y.val * 16 + n.toNat := by
  simp only [wordXYN, toNat_append_mul, toNat_nibbleOfReg]
  omega

/-! ### The fields of words in each format -/

theorem fieldsOf_wordAddr (t : Nibble) (nnn : Addr12) :
    (fieldsOf (wordAddr t nnn)).t = t ∧ (fieldsOf (wordAddr t nnn)).nnn = nnn := by
  have h := toNat_wordAddr t nnn
  have := t.isLt; have := nnn.isLt
  constructor <;> apply BitVec.eq_of_toNat_eq <;>
    simp only [fieldsOf, BitVec.extractLsb'_toNat, h, Nat.shiftRight_eq_div_pow] <;> omega

theorem fieldsOf_wordXKK (t : Nibble) (x : RegIdx) (kk : Byte) :
    (fieldsOf (wordXKK t x kk)).t = t ∧ (fieldsOf (wordXKK t x kk)).x = x ∧ (fieldsOf (wordXKK t x kk)).kk = kk := by
  have h := toNat_wordXKK t x kk
  have := t.isLt; have := x.isLt; have := kk.isLt
  refine ⟨BitVec.eq_of_toNat_eq ?_, Fin.ext ?_, BitVec.eq_of_toNat_eq ?_⟩ <;>
    simp only [fieldsOf, val_regOfNibble, BitVec.extractLsb'_toNat, h, Nat.shiftRight_eq_div_pow] <;> omega

theorem fieldsOf_wordXYN (t : Nibble) (x y : RegIdx) (n : Nibble) :
    (fieldsOf (wordXYN t x y n)).t = t ∧ (fieldsOf (wordXYN t x y n)).x = x ∧ (fieldsOf (wordXYN t x y n)).y = y ∧
      (fieldsOf (wordXYN t x y n)).n = n := by
  have h := toNat_wordXYN t x y n
  have := t.isLt; have := x.isLt; have := y.isLt; have := n.isLt
  refine ⟨BitVec.eq_of_toNat_eq ?_, Fin.ext ?_, Fin.ext ?_, BitVec.eq_of_toNat_eq ?_⟩ <;>
    simp only [fieldsOf, val_regOfNibble, BitVec.extractLsb'_toNat, h, Nat.shiftRight_eq_div_pow] <;> omega

/-! ### A word from its fields -/

theorem wordAddr_fieldsOf (op : Word) : wordAddr (fieldsOf op).t (fieldsOf op).nnn = op := by
  apply BitVec.eq_of_toNat_eq
  have := op.isLt
  simp only [toNat_wordAddr, fieldsOf, BitVec.extractLsb'_toNat, Nat.shiftRight_eq_div_pow]
  omega

theorem wordXKK_fieldsOf (op : Word) : wordXKK (fieldsOf op).t (fieldsOf op).x (fieldsOf op).kk = op := by
  apply BitVec.eq_of_toNat_eq
  have := op.isLt
  simp only [toNat_wordXKK, fieldsOf, val_regOfNibble, BitVec.extractLsb'_toNat, Nat.shiftRight_eq_div_pow]
  omega

theorem wordXYN_fieldsOf (op : Word) : wordXYN (fieldsOf op).t (fieldsOf op).x (fieldsOf op).y (fieldsOf op).n = op := by
  apply BitVec.eq_of_toNat_eq
  have := op.isLt
  simp only [toNat_wordXYN, fieldsOf, val_regOfNibble, BitVec.extractLsb'_toNat, Nat.shiftRight_eq_div_pow]
  omega

/-! ### Well-formedness -/

/-- The operand types are as wide as the fields, so every instruction is well-formed. -/
theorem Laws.instr_wf (i : Instr) : i.wf = true := by
  have ha : ∀ a : Addr12, addrOk a.toNat = true := fun a => by simpa [addrOk] using a.isLt
  have hb : ∀ b : Byte, byteOk b.toNat = true := fun b => by simpa [byteOk] using b.isLt
  have hx : ∀ x : RegIdx, regOk x.val = true := fun x => by simp [regOk]
  have hn : ∀ n : Nibble, rowsOk n.toNat = true := fun n => by simpa [rowsOk] using n.isLt
  cases i <;> simp [Instr.wf, ha, hb, hx, hn]

end Sys2Proof
end

