-- ==== Sys2Proof/Laws/State.lean ====
section
/-! SUPPORT. The small lemmas of the state updates: one per field and update, so that no later proof unfolds a record update; and
the reads of a register after a register write. -/

namespace Sys2Proof.Machine

variable (s : State)

/-! ### setReg -/

@[simp] theorem State.setReg_v (x : RegIdx) (b : Byte) : (s.setReg x b).v = s.v.set x b := rfl
@[simp] theorem State.setReg_i (x : RegIdx) (b : Byte) : (s.setReg x b).i = s.i := rfl
@[simp] theorem State.setReg_pc (x : RegIdx) (b : Byte) : (s.setReg x b).pc = s.pc := rfl
@[simp] theorem State.setReg_stack (x : RegIdx) (b : Byte) : (s.setReg x b).stack = s.stack := rfl
@[simp] theorem State.setReg_sp (x : RegIdx) (b : Byte) : (s.setReg x b).sp = s.sp := rfl
@[simp] theorem State.setReg_dt (x : RegIdx) (b : Byte) : (s.setReg x b).dt = s.dt := rfl
@[simp] theorem State.setReg_st (x : RegIdx) (b : Byte) : (s.setReg x b).st = s.st := rfl
@[simp] theorem State.setReg_disp (x : RegIdx) (b : Byte) : (s.setReg x b).disp = s.disp := rfl
@[simp] theorem State.setReg_waiting (x : RegIdx) (b : Byte) : (s.setReg x b).waiting = s.waiting := rfl
@[simp] theorem State.setReg_waitReg (x : RegIdx) (b : Byte) : (s.setReg x b).waitReg = s.waitReg := rfl
@[simp] theorem State.setReg_fault (x : RegIdx) (b : Byte) : (s.setReg x b).fault = s.fault := rfl
@[simp] theorem State.setReg_mem (x : RegIdx) (b : Byte) : (s.setReg x b).mem = s.mem := rfl
@[simp] theorem State.setReg_key (x : RegIdx) (b : Byte) : (s.setReg x b).key = s.key := rfl
@[simp] theorem State.setReg_keyInputs (x : RegIdx) (b : Byte) : (s.setReg x b).keyInputs = s.keyInputs := rfl
@[simp] theorem State.setReg_rndInputs (x : RegIdx) (b : Byte) : (s.setReg x b).rndInputs = s.rndInputs := rfl
@[simp] theorem State.setReg_draws (x : RegIdx) (b : Byte) : (s.setReg x b).draws = s.draws := rfl
@[simp] theorem State.setReg_diag (x : RegIdx) (b : Byte) : (s.setReg x b).diag = s.diag := rfl

/-! ### setI -/

@[simp] theorem State.setI_v (w : Word) : (s.setI w).v = s.v := rfl
@[simp] theorem State.setI_i (w : Word) : (s.setI w).i = w := rfl
@[simp] theorem State.setI_pc (w : Word) : (s.setI w).pc = s.pc := rfl
@[simp] theorem State.setI_stack (w : Word) : (s.setI w).stack = s.stack := rfl
@[simp] theorem State.setI_sp (w : Word) : (s.setI w).sp = s.sp := rfl
@[simp] theorem State.setI_dt (w : Word) : (s.setI w).dt = s.dt := rfl
@[simp] theorem State.setI_st (w : Word) : (s.setI w).st = s.st := rfl
@[simp] theorem State.setI_disp (w : Word) : (s.setI w).disp = s.disp := rfl
@[simp] theorem State.setI_waiting (w : Word) : (s.setI w).waiting = s.waiting := rfl
@[simp] theorem State.setI_waitReg (w : Word) : (s.setI w).waitReg = s.waitReg := rfl
@[simp] theorem State.setI_fault (w : Word) : (s.setI w).fault = s.fault := rfl
@[simp] theorem State.setI_mem (w : Word) : (s.setI w).mem = s.mem := rfl
@[simp] theorem State.setI_key (w : Word) : (s.setI w).key = s.key := rfl
@[simp] theorem State.setI_keyInputs (w : Word) : (s.setI w).keyInputs = s.keyInputs := rfl
@[simp] theorem State.setI_rndInputs (w : Word) : (s.setI w).rndInputs = s.rndInputs := rfl
@[simp] theorem State.setI_draws (w : Word) : (s.setI w).draws = s.draws := rfl
@[simp] theorem State.setI_diag (w : Word) : (s.setI w).diag = s.diag := rfl

/-! ### setPc -/

@[simp] theorem State.setPc_v (w : Word) : (s.setPc w).v = s.v := rfl
@[simp] theorem State.setPc_i (w : Word) : (s.setPc w).i = s.i := rfl
@[simp] theorem State.setPc_pc (w : Word) : (s.setPc w).pc = w := rfl
@[simp] theorem State.setPc_stack (w : Word) : (s.setPc w).stack = s.stack := rfl
@[simp] theorem State.setPc_sp (w : Word) : (s.setPc w).sp = s.sp := rfl
@[simp] theorem State.setPc_dt (w : Word) : (s.setPc w).dt = s.dt := rfl
@[simp] theorem State.setPc_st (w : Word) : (s.setPc w).st = s.st := rfl
@[simp] theorem State.setPc_disp (w : Word) : (s.setPc w).disp = s.disp := rfl
@[simp] theorem State.setPc_waiting (w : Word) : (s.setPc w).waiting = s.waiting := rfl
@[simp] theorem State.setPc_waitReg (w : Word) : (s.setPc w).waitReg = s.waitReg := rfl
@[simp] theorem State.setPc_fault (w : Word) : (s.setPc w).fault = s.fault := rfl
@[simp] theorem State.setPc_mem (w : Word) : (s.setPc w).mem = s.mem := rfl
@[simp] theorem State.setPc_key (w : Word) : (s.setPc w).key = s.key := rfl
@[simp] theorem State.setPc_keyInputs (w : Word) : (s.setPc w).keyInputs = s.keyInputs := rfl
@[simp] theorem State.setPc_rndInputs (w : Word) : (s.setPc w).rndInputs = s.rndInputs := rfl
@[simp] theorem State.setPc_draws (w : Word) : (s.setPc w).draws = s.draws := rfl
@[simp] theorem State.setPc_diag (w : Word) : (s.setPc w).diag = s.diag := rfl

/-! ### advance -/

@[simp] theorem State.advance_v : (s.advance).v = s.v := rfl
@[simp] theorem State.advance_i : (s.advance).i = s.i := rfl
@[simp] theorem State.advance_pc : (s.advance).pc = s.pc + 2 := rfl
@[simp] theorem State.advance_stack : (s.advance).stack = s.stack := rfl
@[simp] theorem State.advance_sp : (s.advance).sp = s.sp := rfl
@[simp] theorem State.advance_dt : (s.advance).dt = s.dt := rfl
@[simp] theorem State.advance_st : (s.advance).st = s.st := rfl
@[simp] theorem State.advance_disp : (s.advance).disp = s.disp := rfl
@[simp] theorem State.advance_waiting : (s.advance).waiting = s.waiting := rfl
@[simp] theorem State.advance_waitReg : (s.advance).waitReg = s.waitReg := rfl
@[simp] theorem State.advance_fault : (s.advance).fault = s.fault := rfl
@[simp] theorem State.advance_mem : (s.advance).mem = s.mem := rfl
@[simp] theorem State.advance_key : (s.advance).key = s.key := rfl
@[simp] theorem State.advance_keyInputs : (s.advance).keyInputs = s.keyInputs := rfl
@[simp] theorem State.advance_rndInputs : (s.advance).rndInputs = s.rndInputs := rfl
@[simp] theorem State.advance_draws : (s.advance).draws = s.draws := rfl
@[simp] theorem State.advance_diag : (s.advance).diag = s.diag := rfl

/-! ### skipIf -/

@[simp] theorem State.skipIf_v (c : Bool) : (s.skipIf c).v = s.v := rfl
@[simp] theorem State.skipIf_i (c : Bool) : (s.skipIf c).i = s.i := rfl
@[simp] theorem State.skipIf_pc (c : Bool) : (s.skipIf c).pc = if c then s.pc + 4 else s.pc + 2 := rfl
@[simp] theorem State.skipIf_stack (c : Bool) : (s.skipIf c).stack = s.stack := rfl
@[simp] theorem State.skipIf_sp (c : Bool) : (s.skipIf c).sp = s.sp := rfl
@[simp] theorem State.skipIf_dt (c : Bool) : (s.skipIf c).dt = s.dt := rfl
@[simp] theorem State.skipIf_st (c : Bool) : (s.skipIf c).st = s.st := rfl
@[simp] theorem State.skipIf_disp (c : Bool) : (s.skipIf c).disp = s.disp := rfl
@[simp] theorem State.skipIf_waiting (c : Bool) : (s.skipIf c).waiting = s.waiting := rfl
@[simp] theorem State.skipIf_waitReg (c : Bool) : (s.skipIf c).waitReg = s.waitReg := rfl
@[simp] theorem State.skipIf_fault (c : Bool) : (s.skipIf c).fault = s.fault := rfl
@[simp] theorem State.skipIf_mem (c : Bool) : (s.skipIf c).mem = s.mem := rfl
@[simp] theorem State.skipIf_key (c : Bool) : (s.skipIf c).key = s.key := rfl
@[simp] theorem State.skipIf_keyInputs (c : Bool) : (s.skipIf c).keyInputs = s.keyInputs := rfl
@[simp] theorem State.skipIf_rndInputs (c : Bool) : (s.skipIf c).rndInputs = s.rndInputs := rfl
@[simp] theorem State.skipIf_draws (c : Bool) : (s.skipIf c).draws = s.draws := rfl
@[simp] theorem State.skipIf_diag (c : Bool) : (s.skipIf c).diag = s.diag := rfl

/-! ### storeBytes -/

@[simp] theorem State.storeBytes_v (a : Nat) (bs : List Byte) : (s.storeBytes a bs).v = s.v := rfl
@[simp] theorem State.storeBytes_i (a : Nat) (bs : List Byte) : (s.storeBytes a bs).i = s.i := rfl
@[simp] theorem State.storeBytes_pc (a : Nat) (bs : List Byte) : (s.storeBytes a bs).pc = s.pc := rfl
@[simp] theorem State.storeBytes_stack (a : Nat) (bs : List Byte) : (s.storeBytes a bs).stack = s.stack := rfl
@[simp] theorem State.storeBytes_sp (a : Nat) (bs : List Byte) : (s.storeBytes a bs).sp = s.sp := rfl
@[simp] theorem State.storeBytes_dt (a : Nat) (bs : List Byte) : (s.storeBytes a bs).dt = s.dt := rfl
@[simp] theorem State.storeBytes_st (a : Nat) (bs : List Byte) : (s.storeBytes a bs).st = s.st := rfl
@[simp] theorem State.storeBytes_disp (a : Nat) (bs : List Byte) : (s.storeBytes a bs).disp = s.disp := rfl
@[simp] theorem State.storeBytes_waiting (a : Nat) (bs : List Byte) : (s.storeBytes a bs).waiting = s.waiting := rfl
@[simp] theorem State.storeBytes_waitReg (a : Nat) (bs : List Byte) : (s.storeBytes a bs).waitReg = s.waitReg := rfl
@[simp] theorem State.storeBytes_fault (a : Nat) (bs : List Byte) : (s.storeBytes a bs).fault = s.fault := rfl
@[simp] theorem State.storeBytes_mem (a : Nat) (bs : List Byte) : (s.storeBytes a bs).mem = s.mem.writeBytes a bs := rfl
@[simp] theorem State.storeBytes_key (a : Nat) (bs : List Byte) : (s.storeBytes a bs).key = s.key := rfl
@[simp] theorem State.storeBytes_keyInputs (a : Nat) (bs : List Byte) : (s.storeBytes a bs).keyInputs = s.keyInputs := rfl
@[simp] theorem State.storeBytes_rndInputs (a : Nat) (bs : List Byte) : (s.storeBytes a bs).rndInputs = s.rndInputs := rfl
@[simp] theorem State.storeBytes_draws (a : Nat) (bs : List Byte) : (s.storeBytes a bs).draws = s.draws := rfl
@[simp] theorem State.storeBytes_diag (a : Nat) (bs : List Byte) : (s.storeBytes a bs).diag = s.diag := rfl

/-! ### loadRegs -/

@[simp] theorem State.loadRegs_v (x : RegIdx) : (s.loadRegs x).v = Vector.ofFn fun k : Fin 16 => if k ≤ x then s.mem.read (s.i.toNat + k.val) else s.v[k] := rfl
@[simp] theorem State.loadRegs_i (x : RegIdx) : (s.loadRegs x).i = s.i := rfl
@[simp] theorem State.loadRegs_pc (x : RegIdx) : (s.loadRegs x).pc = s.pc := rfl
@[simp] theorem State.loadRegs_stack (x : RegIdx) : (s.loadRegs x).stack = s.stack := rfl
@[simp] theorem State.loadRegs_sp (x : RegIdx) : (s.loadRegs x).sp = s.sp := rfl
@[simp] theorem State.loadRegs_dt (x : RegIdx) : (s.loadRegs x).dt = s.dt := rfl
@[simp] theorem State.loadRegs_st (x : RegIdx) : (s.loadRegs x).st = s.st := rfl
@[simp] theorem State.loadRegs_disp (x : RegIdx) : (s.loadRegs x).disp = s.disp := rfl
@[simp] theorem State.loadRegs_waiting (x : RegIdx) : (s.loadRegs x).waiting = s.waiting := rfl
@[simp] theorem State.loadRegs_waitReg (x : RegIdx) : (s.loadRegs x).waitReg = s.waitReg := rfl
@[simp] theorem State.loadRegs_fault (x : RegIdx) : (s.loadRegs x).fault = s.fault := rfl
@[simp] theorem State.loadRegs_mem (x : RegIdx) : (s.loadRegs x).mem = s.mem := rfl
@[simp] theorem State.loadRegs_key (x : RegIdx) : (s.loadRegs x).key = s.key := rfl
@[simp] theorem State.loadRegs_keyInputs (x : RegIdx) : (s.loadRegs x).keyInputs = s.keyInputs := rfl
@[simp] theorem State.loadRegs_rndInputs (x : RegIdx) : (s.loadRegs x).rndInputs = s.rndInputs := rfl
@[simp] theorem State.loadRegs_draws (x : RegIdx) : (s.loadRegs x).draws = s.draws := rfl
@[simp] theorem State.loadRegs_diag (x : RegIdx) : (s.loadRegs x).diag = s.diag := rfl

/-! ### countdown -/

@[simp] theorem State.countdown_v : (s.countdown).v = s.v := rfl
@[simp] theorem State.countdown_i : (s.countdown).i = s.i := rfl
@[simp] theorem State.countdown_pc : (s.countdown).pc = s.pc := rfl
@[simp] theorem State.countdown_stack : (s.countdown).stack = s.stack := rfl
@[simp] theorem State.countdown_sp : (s.countdown).sp = s.sp := rfl
@[simp] theorem State.countdown_dt : (s.countdown).dt = countedDown s.dt := rfl
@[simp] theorem State.countdown_st : (s.countdown).st = countedDown s.st := rfl
@[simp] theorem State.countdown_disp : (s.countdown).disp = s.disp := rfl
@[simp] theorem State.countdown_waiting : (s.countdown).waiting = s.waiting := rfl
@[simp] theorem State.countdown_waitReg : (s.countdown).waitReg = s.waitReg := rfl
@[simp] theorem State.countdown_fault : (s.countdown).fault = s.fault := rfl
@[simp] theorem State.countdown_mem : (s.countdown).mem = s.mem := rfl
@[simp] theorem State.countdown_key : (s.countdown).key = s.key := rfl
@[simp] theorem State.countdown_keyInputs : (s.countdown).keyInputs = s.keyInputs := rfl
@[simp] theorem State.countdown_rndInputs : (s.countdown).rndInputs = s.rndInputs := rfl
@[simp] theorem State.countdown_draws : (s.countdown).draws = s.draws := rfl
@[simp] theorem State.countdown_diag : (s.countdown).diag = s.diag := rfl

/-! ### sampleKeys -/

@[simp] theorem State.sampleKeys_v : (s.sampleKeys).v = s.v := rfl
@[simp] theorem State.sampleKeys_i : (s.sampleKeys).i = s.i := rfl
@[simp] theorem State.sampleKeys_pc : (s.sampleKeys).pc = s.pc := rfl
@[simp] theorem State.sampleKeys_stack : (s.sampleKeys).stack = s.stack := rfl
@[simp] theorem State.sampleKeys_sp : (s.sampleKeys).sp = s.sp := rfl
@[simp] theorem State.sampleKeys_dt : (s.sampleKeys).dt = s.dt := rfl
@[simp] theorem State.sampleKeys_st : (s.sampleKeys).st = s.st := rfl
@[simp] theorem State.sampleKeys_disp : (s.sampleKeys).disp = s.disp := rfl
@[simp] theorem State.sampleKeys_waiting : (s.sampleKeys).waiting = s.waiting := rfl
@[simp] theorem State.sampleKeys_waitReg : (s.sampleKeys).waitReg = s.waitReg := rfl
@[simp] theorem State.sampleKeys_fault : (s.sampleKeys).fault = s.fault := rfl
@[simp] theorem State.sampleKeys_mem : (s.sampleKeys).mem = s.mem := rfl
@[simp] theorem State.sampleKeys_key : (s.sampleKeys).key = s.keyInputs.headD s.key := rfl
@[simp] theorem State.sampleKeys_keyInputs : (s.sampleKeys).keyInputs = s.keyInputs.tail := rfl
@[simp] theorem State.sampleKeys_rndInputs : (s.sampleKeys).rndInputs = s.rndInputs := rfl
@[simp] theorem State.sampleKeys_draws : (s.sampleKeys).draws = s.draws := rfl
@[simp] theorem State.sampleKeys_diag : (s.sampleKeys).diag = s.diag := rfl

/-! ### consumeRnd -/

@[simp] theorem State.consumeRnd_v : (s.consumeRnd).v = s.v := rfl
@[simp] theorem State.consumeRnd_i : (s.consumeRnd).i = s.i := rfl
@[simp] theorem State.consumeRnd_pc : (s.consumeRnd).pc = s.pc := rfl
@[simp] theorem State.consumeRnd_stack : (s.consumeRnd).stack = s.stack := rfl
@[simp] theorem State.consumeRnd_sp : (s.consumeRnd).sp = s.sp := rfl
@[simp] theorem State.consumeRnd_dt : (s.consumeRnd).dt = s.dt := rfl
@[simp] theorem State.consumeRnd_st : (s.consumeRnd).st = s.st := rfl
@[simp] theorem State.consumeRnd_disp : (s.consumeRnd).disp = s.disp := rfl
@[simp] theorem State.consumeRnd_waiting : (s.consumeRnd).waiting = s.waiting := rfl
@[simp] theorem State.consumeRnd_waitReg : (s.consumeRnd).waitReg = s.waitReg := rfl
@[simp] theorem State.consumeRnd_fault : (s.consumeRnd).fault = s.fault := rfl
@[simp] theorem State.consumeRnd_mem : (s.consumeRnd).mem = s.mem := rfl
@[simp] theorem State.consumeRnd_key : (s.consumeRnd).key = s.key := rfl
@[simp] theorem State.consumeRnd_keyInputs : (s.consumeRnd).keyInputs = s.keyInputs := rfl
@[simp] theorem State.consumeRnd_rndInputs : (s.consumeRnd).rndInputs = s.rndInputs.tail := rfl
@[simp] theorem State.consumeRnd_draws : (s.consumeRnd).draws = s.draws + 1 := rfl
@[simp] theorem State.consumeRnd_diag : (s.consumeRnd).diag = s.diag := rfl

/-! ### emit -/

@[simp] theorem State.emit_v (op : Word) : (s.emit op).v = s.v := rfl
@[simp] theorem State.emit_i (op : Word) : (s.emit op).i = s.i := rfl
@[simp] theorem State.emit_pc (op : Word) : (s.emit op).pc = s.pc := rfl
@[simp] theorem State.emit_stack (op : Word) : (s.emit op).stack = s.stack := rfl
@[simp] theorem State.emit_sp (op : Word) : (s.emit op).sp = s.sp := rfl
@[simp] theorem State.emit_dt (op : Word) : (s.emit op).dt = s.dt := rfl
@[simp] theorem State.emit_st (op : Word) : (s.emit op).st = s.st := rfl
@[simp] theorem State.emit_disp (op : Word) : (s.emit op).disp = s.disp := rfl
@[simp] theorem State.emit_waiting (op : Word) : (s.emit op).waiting = s.waiting := rfl
@[simp] theorem State.emit_waitReg (op : Word) : (s.emit op).waitReg = s.waitReg := rfl
@[simp] theorem State.emit_fault (op : Word) : (s.emit op).fault = s.fault := rfl
@[simp] theorem State.emit_mem (op : Word) : (s.emit op).mem = s.mem := rfl
@[simp] theorem State.emit_key (op : Word) : (s.emit op).key = s.key := rfl
@[simp] theorem State.emit_keyInputs (op : Word) : (s.emit op).keyInputs = s.keyInputs := rfl
@[simp] theorem State.emit_rndInputs (op : Word) : (s.emit op).rndInputs = s.rndInputs := rfl
@[simp] theorem State.emit_draws (op : Word) : (s.emit op).draws = s.draws := rfl
@[simp] theorem State.emit_diag (op : Word) : (s.emit op).diag = ⟨op, s.pc⟩ :: s.diag := rfl

/-! ### raise -/

@[simp] theorem State.raise_v (c : Fault) (o : Option Word) (a : Option Nat) : (s.raise c o a).v = s.v := rfl
@[simp] theorem State.raise_i (c : Fault) (o : Option Word) (a : Option Nat) : (s.raise c o a).i = s.i := rfl
@[simp] theorem State.raise_pc (c : Fault) (o : Option Word) (a : Option Nat) : (s.raise c o a).pc = s.pc := rfl
@[simp] theorem State.raise_stack (c : Fault) (o : Option Word) (a : Option Nat) : (s.raise c o a).stack = s.stack := rfl
@[simp] theorem State.raise_sp (c : Fault) (o : Option Word) (a : Option Nat) : (s.raise c o a).sp = s.sp := rfl
@[simp] theorem State.raise_dt (c : Fault) (o : Option Word) (a : Option Nat) : (s.raise c o a).dt = s.dt := rfl
@[simp] theorem State.raise_st (c : Fault) (o : Option Word) (a : Option Nat) : (s.raise c o a).st = s.st := rfl
@[simp] theorem State.raise_disp (c : Fault) (o : Option Word) (a : Option Nat) : (s.raise c o a).disp = s.disp := rfl
@[simp] theorem State.raise_waiting (c : Fault) (o : Option Word) (a : Option Nat) : (s.raise c o a).waiting = s.waiting := rfl
@[simp] theorem State.raise_waitReg (c : Fault) (o : Option Word) (a : Option Nat) : (s.raise c o a).waitReg = s.waitReg := rfl
@[simp] theorem State.raise_fault (c : Fault) (o : Option Word) (a : Option Nat) : (s.raise c o a).fault = s.fault.or (some ⟨c, s.pc, o, a⟩) := rfl
@[simp] theorem State.raise_mem (c : Fault) (o : Option Word) (a : Option Nat) : (s.raise c o a).mem = s.mem := rfl
@[simp] theorem State.raise_key (c : Fault) (o : Option Word) (a : Option Nat) : (s.raise c o a).key = s.key := rfl
@[simp] theorem State.raise_keyInputs (c : Fault) (o : Option Word) (a : Option Nat) : (s.raise c o a).keyInputs = s.keyInputs := rfl
@[simp] theorem State.raise_rndInputs (c : Fault) (o : Option Word) (a : Option Nat) : (s.raise c o a).rndInputs = s.rndInputs := rfl
@[simp] theorem State.raise_draws (c : Fault) (o : Option Word) (a : Option Nat) : (s.raise c o a).draws = s.draws := rfl
@[simp] theorem State.raise_diag (c : Fault) (o : Option Word) (a : Option Nat) : (s.raise c o a).diag = s.diag := rfl

/-! ### setFlag -/

@[simp] theorem State.setFlag_v (b : Bool) : (s.setFlag b).v = s.v.set vf (flagByte b) := rfl
@[simp] theorem State.setFlag_i (b : Bool) : (s.setFlag b).i = s.i := rfl
@[simp] theorem State.setFlag_pc (b : Bool) : (s.setFlag b).pc = s.pc := rfl
@[simp] theorem State.setFlag_stack (b : Bool) : (s.setFlag b).stack = s.stack := rfl
@[simp] theorem State.setFlag_sp (b : Bool) : (s.setFlag b).sp = s.sp := rfl
@[simp] theorem State.setFlag_dt (b : Bool) : (s.setFlag b).dt = s.dt := rfl
@[simp] theorem State.setFlag_st (b : Bool) : (s.setFlag b).st = s.st := rfl
@[simp] theorem State.setFlag_disp (b : Bool) : (s.setFlag b).disp = s.disp := rfl
@[simp] theorem State.setFlag_waiting (b : Bool) : (s.setFlag b).waiting = s.waiting := rfl
@[simp] theorem State.setFlag_waitReg (b : Bool) : (s.setFlag b).waitReg = s.waitReg := rfl
@[simp] theorem State.setFlag_fault (b : Bool) : (s.setFlag b).fault = s.fault := rfl
@[simp] theorem State.setFlag_mem (b : Bool) : (s.setFlag b).mem = s.mem := rfl
@[simp] theorem State.setFlag_key (b : Bool) : (s.setFlag b).key = s.key := rfl
@[simp] theorem State.setFlag_keyInputs (b : Bool) : (s.setFlag b).keyInputs = s.keyInputs := rfl
@[simp] theorem State.setFlag_rndInputs (b : Bool) : (s.setFlag b).rndInputs = s.rndInputs := rfl
@[simp] theorem State.setFlag_draws (b : Bool) : (s.setFlag b).draws = s.draws := rfl
@[simp] theorem State.setFlag_diag (b : Bool) : (s.setFlag b).diag = s.diag := rfl

/-! ### setResultFlag -/

@[simp] theorem State.setResultFlag_v (x : RegIdx) (r : Byte) (b : Bool) : (s.setResultFlag x r b).v = (s.v.set x r).set vf (flagByte b) := rfl
@[simp] theorem State.setResultFlag_i (x : RegIdx) (r : Byte) (b : Bool) : (s.setResultFlag x r b).i = s.i := rfl
@[simp] theorem State.setResultFlag_pc (x : RegIdx) (r : Byte) (b : Bool) : (s.setResultFlag x r b).pc = s.pc := rfl
@[simp] theorem State.setResultFlag_stack (x : RegIdx) (r : Byte) (b : Bool) : (s.setResultFlag x r b).stack = s.stack := rfl
@[simp] theorem State.setResultFlag_sp (x : RegIdx) (r : Byte) (b : Bool) : (s.setResultFlag x r b).sp = s.sp := rfl
@[simp] theorem State.setResultFlag_dt (x : RegIdx) (r : Byte) (b : Bool) : (s.setResultFlag x r b).dt = s.dt := rfl
@[simp] theorem State.setResultFlag_st (x : RegIdx) (r : Byte) (b : Bool) : (s.setResultFlag x r b).st = s.st := rfl
@[simp] theorem State.setResultFlag_disp (x : RegIdx) (r : Byte) (b : Bool) : (s.setResultFlag x r b).disp = s.disp := rfl
@[simp] theorem State.setResultFlag_waiting (x : RegIdx) (r : Byte) (b : Bool) : (s.setResultFlag x r b).waiting = s.waiting := rfl
@[simp] theorem State.setResultFlag_waitReg (x : RegIdx) (r : Byte) (b : Bool) : (s.setResultFlag x r b).waitReg = s.waitReg := rfl
@[simp] theorem State.setResultFlag_fault (x : RegIdx) (r : Byte) (b : Bool) : (s.setResultFlag x r b).fault = s.fault := rfl
@[simp] theorem State.setResultFlag_mem (x : RegIdx) (r : Byte) (b : Bool) : (s.setResultFlag x r b).mem = s.mem := rfl
@[simp] theorem State.setResultFlag_key (x : RegIdx) (r : Byte) (b : Bool) : (s.setResultFlag x r b).key = s.key := rfl
@[simp] theorem State.setResultFlag_keyInputs (x : RegIdx) (r : Byte) (b : Bool) : (s.setResultFlag x r b).keyInputs = s.keyInputs := rfl
@[simp] theorem State.setResultFlag_rndInputs (x : RegIdx) (r : Byte) (b : Bool) : (s.setResultFlag x r b).rndInputs = s.rndInputs := rfl
@[simp] theorem State.setResultFlag_draws (x : RegIdx) (r : Byte) (b : Bool) : (s.setResultFlag x r b).draws = s.draws := rfl
@[simp] theorem State.setResultFlag_diag (x : RegIdx) (r : Byte) (b : Bool) : (s.setResultFlag x r b).diag = s.diag := rfl

/-! ### Registers read after an update -/

theorem State.reg_eq (x : RegIdx) : s.reg x = s.v[x] := rfl

@[simp] theorem State.reg_setReg (x k : RegIdx) (b : Byte) : (s.setReg x b).reg k = if k = x then b else s.reg k := by
  simp only [State.reg, State.setReg_v, Fin.getElem_fin, Vector.getElem_set, Fin.ext_iff, eq_comm]

@[simp] theorem State.reg_setFlag (b : Bool) (k : RegIdx) : (s.setFlag b).reg k = if k = 15 then flagByte b else s.reg k :=
  s.reg_setReg vf k (flagByte b)

@[simp] theorem State.reg_setResultFlag (x k : RegIdx) (r : Byte) (b : Bool) :
    (s.setResultFlag x r b).reg k = if k = 15 then flagByte b else if k = x then r else s.reg k := by
  simp [State.setResultFlag]

@[simp] theorem State.reg_loadRegs (x k : RegIdx) :
    (s.loadRegs x).reg k = if k ≤ x then s.mem.read (s.i.toNat + k.val) else s.reg k := by
  simp [State.reg]

/-- Only `v` decides what a register reads as. -/
theorem State.reg_congr {s t : State} (h : t.v = s.v) (k : RegIdx) : t.reg k = s.reg k := by
  simp [State.reg, h]

/-- A state is determined by its fields. -/
theorem State.ext_fields {s t : State} (hv : s.v = t.v) (hi : s.i = t.i) (hpc : s.pc = t.pc) (hstack : s.stack = t.stack)
    (hsp : s.sp = t.sp) (hdt : s.dt = t.dt) (hst : s.st = t.st) (hdisp : s.disp = t.disp) (hw : s.waiting = t.waiting)
    (hwr : s.waitReg = t.waitReg) (hf : s.fault = t.fault) (hm : s.mem = t.mem) (hk : s.key = t.key)
    (hki : s.keyInputs = t.keyInputs) (hr : s.rndInputs = t.rndInputs) (hd : s.draws = t.draws) (hg : s.diag = t.diag) :
    s = t := by
  cases s; cases t; simp_all

@[simp] theorem flagByte_toNat (b : Bool) : (flagByte b).toNat = if b then 1 else 0 := by
  cases b <;> rfl

/-- Half and full reads of the timer's countdown: one less, stopping at 0 (40_tick R88). -/
@[simp] theorem countedDown_toNat (t : Byte) : (countedDown t).toNat = t.toNat - 1 := by
  unfold countedDown
  split
  · next h => simp [h]
  · next h => bv_omega

end Sys2Proof.Machine
end

