-- ==== Sys2Proof/Laws/Memory.lean ====
section
/-! SUPPORT. The laws of memory: reads after writes, for one byte and for a block, in every memory; and the canonical form, kept by
every write. -/

namespace Sys2Proof.Machine

@[simp] theorem Memory.read_nil (a : Nat) : Memory.read [] a = Memory.unlisted a := rfl

theorem Memory.read_cons (c : Host.Cell) (m : Memory) (a : Nat) :
    Memory.read (c :: m) a = if c.1 = a then c.2 else Memory.read m a := rfl

theorem Memory.erase_cons (c : Host.Cell) (m : Memory) (a : Nat) :
    Memory.erase (c :: m) a = if c.1 = a then Memory.erase m a else c :: Memory.erase m a := by
  by_cases h : c.1 = a <;> simp [Memory.erase, h]

theorem Memory.read_erase (m : Memory) (a a' : Nat) :
    (Memory.erase m a).read a' = if a' = a then Memory.unlisted a' else m.read a' := by
  induction m with
  | nil => simp [Memory.erase]
  | cons c m ih =>
    rw [Memory.erase_cons, Memory.read_cons]
    by_cases hc : c.1 = a
    · rw [if_pos hc, ih]
      split
      · rfl
      · next h => rw [if_neg (fun e => h (e.symm.trans hc))]
    · rw [if_neg hc, Memory.read_cons, ih]
      split
      · next h => rw [if_neg (fun e => hc (h.trans e))]
      · rfl

theorem Memory.read_insert_erase (m : Memory) (a : Nat) (b : Byte) (a' : Nat) :
    (Memory.insert (Memory.erase m a) a b).read a' = if a' = a then b else m.read a' := by
  have key : ∀ n : Memory, (∀ c ∈ n, c.1 ≠ a) → (Memory.insert n a b).read a' = if a' = a then b else n.read a' := by
    intro n
    induction n with
    | nil => intro _; simp [Memory.insert, Memory.read_cons, eq_comm]
    | cons c n ih =>
      intro h
      have hc := h c (by simp)
      unfold Memory.insert
      split
      · simp [Memory.read_cons, eq_comm]
      · rw [Memory.read_cons, Memory.read_cons, ih fun d hd => h d (by simp [hd])]
        split <;> split <;> simp_all
  rw [key _ (by simp [Memory.erase]), Memory.read_erase]
  split <;> simp_all

/-- A read after a write: the byte written, and every other byte as before. -/
theorem Memory.read_write (m : Memory) (a : Nat) (b : Byte) (a' : Nat) :
    (m.write a b).read a' = if a' = a then b else m.read a' := by
  unfold Memory.write
  split
  · next h => rw [Memory.read_erase]; split <;> simp_all
  · exact Memory.read_insert_erase m a b a'

/-- A read after a block write: the block's byte inside it, and every other byte as before. -/
theorem Memory.read_writeBytes (m : Memory) (a : Nat) (bs : List Byte) (a' : Nat) :
    (m.writeBytes a bs).read a' = if a ≤ a' ∧ a' < a + bs.length then bs.getD (a' - a) 0 else m.read a' := by
  induction bs generalizing m a with
  | nil => simp only [Memory.writeBytes, List.length_nil]; rw [if_neg (by omega)]
  | cons b bs ih =>
    rw [Memory.writeBytes, ih, Memory.read_write]
    simp only [List.length_cons]
    by_cases h1 : a' = a
    · subst h1; rw [if_neg (by omega), if_pos rfl, if_pos (by omega)]; simp
    · by_cases h2 : a + 1 ≤ a' ∧ a' < a + 1 + bs.length
      · rw [if_pos h2, if_pos (by omega)]
        obtain ⟨d, hd⟩ : ∃ d, a' - a = d + 1 := ⟨a' - a - 1, by omega⟩
        rw [hd, List.getD_cons_succ, show a' - (a + 1) = d by omega]
      · rw [if_neg h2, if_neg h1, if_neg (by omega)]

@[simp] theorem Memory.length_readBytes (m : Memory) (a n : Nat) : (m.readBytes a n).length = n := by
  simp [Memory.readBytes]

theorem Memory.getElem_readBytes (m : Memory) (a n k : Nat) (h : k < (m.readBytes a n).length) :
    (m.readBytes a n)[k] = m.read (a + k) := by
  simp [Memory.readBytes]

/-! ### The canonical form -/

theorem Memory.wfFrom_cons (lo : Nat) (c : Host.Cell) (m : Memory) :
    Memory.wfFrom lo (c :: m) = true ↔
      lo ≤ c.1 ∧ c.1 < 4096 ∧ c.2 ≠ Memory.unlisted c.1 ∧ Memory.wfFrom (c.1 + 1) m = true := by
  simp only [Memory.wfFrom, Bool.and_eq_true, decide_eq_true_eq, and_assoc]
  rfl

theorem Memory.wfFrom_mono {lo lo' : Nat} {m : Memory} (h : lo' ≤ lo) (hm : Memory.wfFrom lo m = true) :
    Memory.wfFrom lo' m = true := by
  cases m with
  | nil => rfl
  | cons c m => rw [Memory.wfFrom_cons] at hm ⊢; exact ⟨by omega, hm.2⟩

theorem Memory.wfFrom_erase {lo : Nat} {m : Memory} (a : Nat) (hm : Memory.wfFrom lo m = true) :
    Memory.wfFrom lo (Memory.erase m a) = true := by
  induction m generalizing lo with
  | nil => exact hm
  | cons c m ih =>
    rw [Memory.wfFrom_cons] at hm
    rw [Memory.erase_cons]
    split
    · exact Memory.wfFrom_mono (by omega) (ih hm.2.2.2)
    · exact (Memory.wfFrom_cons ..).2 ⟨hm.1, hm.2.1, hm.2.2.1, ih hm.2.2.2⟩

theorem Memory.wfFrom_insert {lo : Nat} {m : Memory} {a : Nat} {b : Byte} (hm : Memory.wfFrom lo m = true) (hlo : lo ≤ a)
    (ha : a < 4096) (hb : b ≠ Memory.unlisted a) (hne : ∀ c ∈ m, c.1 ≠ a) : Memory.wfFrom lo (Memory.insert m a b) = true := by
  induction m generalizing lo with
  | nil => exact (Memory.wfFrom_cons ..).2 ⟨hlo, ha, hb, rfl⟩
  | cons c m ih =>
    have hc := hne c (by simp)
    rw [Memory.wfFrom_cons] at hm
    unfold Memory.insert
    split
    · next h => exact (Memory.wfFrom_cons ..).2 ⟨hlo, ha, hb, (Memory.wfFrom_cons ..).2 ⟨by simp; omega, hm.2⟩⟩
    · exact (Memory.wfFrom_cons ..).2
        ⟨hm.1, hm.2.1, hm.2.2.1, ih hm.2.2.2 (by omega) fun d hd => hne d (by simp [hd])⟩

/-- A write below 4096 keeps the canonical form. -/
theorem Memory.wf_write {m : Memory} {a : Nat} (b : Byte) (ha : a < 4096) (hm : m.wf = true) : (m.write a b).wf = true := by
  unfold Memory.write Memory.wf
  split
  · exact Memory.wfFrom_erase a hm
  · next h => exact Memory.wfFrom_insert (Memory.wfFrom_erase a hm) (by omega) ha h (by simp [Memory.erase])

/-- A block write below 4096 keeps the canonical form. -/
theorem Memory.wf_writeBytes {m : Memory} {a : Nat} (bs : List Byte) (ha : a + bs.length ≤ 4096) (hm : m.wf = true) :
    (m.writeBytes a bs).wf = true := by
  induction bs generalizing m a with
  | nil => exact hm
  | cons b bs ih =>
    simp only [List.length_cons] at ha
    exact ih (by omega) (Memory.wf_write b (by omega) hm)

/-- The memory after reset is in the canonical form. -/
theorem Memory.wf_reset : State.reset.mem.wf = true := rfl

/-- Writing what every unlisted address reads as, to an empty memory, lists nothing. -/
theorem Memory.writeBytes_unlisted (n a : Nat) : Memory.writeBytes [] a ((List.range' a n).map Memory.unlisted) = [] := by
  induction n generalizing a with
  | zero => rfl
  | succ n ih => simpa [List.range'_succ, Memory.writeBytes, Memory.write, Memory.erase] using ih (a + 1)

/-- The default font is what the addresses from 0 to 79 read as unlisted. -/
theorem defaultFont_eq : defaultFont.toList = (List.range' 0 80).map Memory.unlisted := rfl

/-- Memory after a reset with the default font and no program lists nothing. -/
theorem Memory.writeBytes_defaultFont : Memory.writeBytes [] 0 defaultFont.toList = [] := by
  rw [defaultFont_eq, Memory.writeBytes_unlisted]

end Sys2Proof.Machine
end

