-- ==== Sys2Proof/Laws/Ops.lean ====
section
/-! SUPPORT. One lemma per shared operation that says everything it can do, for proofs to cite instead of unfolding it. -/

namespace Sys2Proof.Machine

/-! ### The call stack -/

theorem State.push_of_lt (s : State) (w : Word) (h : s.sp.val < 16) :
    s.push w = some { s with stack := s.stack.set s.sp.val w h, sp := ⟨s.sp.val + 1, by omega⟩ } := by
  simp [State.push, h]

theorem State.push_of_full (s : State) (w : Word) (h : s.sp.val = 16) : s.push w = none := by
  simp [State.push, h]

theorem State.pop_of_pos (s : State) (k : Fin 16) (h : s.sp.val = k.val + 1) :
    s.pop = some (s.stack[k], { s with sp := ⟨k.val, by omega⟩ }) := by
  simp [State.pop, h]

theorem State.pop_of_zero (s : State) (h : s.sp.val = 0) : s.pop = none := by
  simp [State.pop, h]

/-- What a push can do: with room, it stores and counts; full, it does nothing. -/
theorem State.push_cases (s : State) (w : Word) :
    (s.sp.val = 16 ∧ s.push w = none) ∨ ∃ h : s.sp.val < 16,
      s.push w = some { s with stack := s.stack.set s.sp.val w h, sp := ⟨s.sp.val + 1, by omega⟩ } := by
  by_cases h : s.sp.val < 16
  · exact .inr ⟨h, s.push_of_lt w h⟩
  · exact .inl ⟨by omega, s.push_of_full w (by omega)⟩

/-- What a pop can do: with an entry, it reads the top and counts down; empty, it does nothing. -/
theorem State.pop_cases (s : State) :
    (s.sp.val = 0 ∧ s.pop = none) ∨ ∃ k : Fin 16, s.sp.val = k.val + 1 ∧
      s.pop = some (s.stack[k], { s with sp := ⟨k.val, by omega⟩ }) := by
  by_cases h : s.sp.val = 0
  · exact .inl ⟨h, s.pop_of_zero h⟩
  · have hk : s.sp.val = (⟨s.sp.val - 1, by omega⟩ : Fin 16).val + 1 := by simp; omega
    exact .inr ⟨_, hk, s.pop_of_pos _ hk⟩

/-! ### Ranges and operands -/

theorem outOfRange_of_le {base count : Nat} (h : count = 0 ∨ base + count - 1 ≤ 4095) : outOfRange base count = none := by
  unfold outOfRange
  split
  · rfl
  · next h0 => exact if_pos (h.resolve_left h0)

theorem outOfRange_of_gt {base count : Nat} (h0 : 0 < count) (h : 4095 < base + count - 1) :
    outOfRange base count = some (max base 4096) := by
  have h1 : ¬(base + count - 1 ≤ Config.lastAddr) := by simp only [Config.lastAddr]; omega
  simp only [outOfRange, if_neg (Nat.ne_of_gt h0), if_neg h1]
  rfl

/-- What the range check can answer. -/
theorem outOfRange_cases (base count : Nat) :
    ((count = 0 ∨ base + count - 1 ≤ 4095) ∧ outOfRange base count = none) ∨
      (0 < count ∧ 4095 < base + count - 1 ∧ outOfRange base count = some (max base 4096)) := by
  by_cases h : count = 0 ∨ base + count - 1 ≤ 4095
  · exact .inl ⟨h, outOfRange_of_le h⟩
  · exact .inr ⟨by omega, by omega, outOfRange_of_gt (by omega) (by omega)⟩

@[simp] theorem length_bcdDigits (b : Byte) : (bcdDigits b).length = 3 := rfl

@[simp] theorem length_regsUpTo (v : Vector Byte 16) (x : RegIdx) : (regsUpTo v x).length = x.val + 1 := by
  have := x.isLt
  simp [regsUpTo]

theorem getD_regsUpTo (v : Vector Byte 16) (x k : RegIdx) (h : k ≤ x) : (regsUpTo v x).getD k.val 0 = v[k] := by
  have := x.isLt
  have hk : k.val ≤ x.val := h
  rw [List.getD_eq_getElem _ _ (by rw [length_regsUpTo]; omega)]
  simp [regsUpTo]

@[simp] theorem toNat_zextAddr (nnn : Addr12) : (zextAddr nnn).toNat = nnn.toNat := by
  have := nnn.isLt
  simp only [zextAddr, BitVec.toNat_setWidth]
  omega

@[simp] theorem toNat_zextByte (b : Byte) : (zextByte b).toNat = b.toNat := by
  have := b.isLt
  simp only [zextByte, BitVec.toNat_setWidth]
  omega

theorem keyAt_of_le {s : State} {b : Byte} (k : RegIdx) (h : b.toNat = k.val) : keyAt s b = some s.key[k] := by
  simp [keyAt, h]

theorem keyAt_of_gt {s : State} {b : Byte} (h : 15 < b.toNat) : keyAt s b = none := by
  simp [keyAt]; omega

/-- What a key index can select. -/
theorem keyAt_cases (s : State) (b : Byte) :
    (15 < b.toNat ∧ keyAt s b = none) ∨ ∃ k : RegIdx, b.toNat = k.val ∧ keyAt s b = some s.key[k] := by
  by_cases h : 15 < b.toNat
  · exact .inl ⟨h, keyAt_of_gt h⟩
  · exact .inr ⟨⟨b.toNat, by omega⟩, rfl, keyAt_of_le _ rfl⟩

/-! ### The key wait -/

theorem Keys.least_eq_none (k : Keys) : k.least = none ↔ ∀ j : RegIdx, k[j] = false := by
  simp [Keys.least]

theorem Keys.least_eq_some (k : Keys) (j : RegIdx) :
    k.least = some j ↔ k[j] = true ∧ ∀ i, i < j → k[i] = false := by
  unfold Keys.least
  rw [List.find?_eq_some_iff_getElem]
  simp only [List.length_finRange, List.getElem_finRange]
  constructor
  · rintro ⟨hj, i, hi, rfl, h⟩
    exact ⟨hj, fun m hm => by simpa using h m.val hm⟩
  · rintro ⟨hj, h⟩
    exact ⟨hj, j.val, j.isLt, rfl, fun m hm => by simpa using h ⟨m, by omega⟩ hm⟩

theorem State.waitCheck_of_none (s : State) (h : ∀ j : RegIdx, s.key[j] = false) : s.waitCheck = s := by
  simp [State.waitCheck, (Keys.least_eq_none _).2 h]

theorem State.waitCheck_of_least (s : State) (j : RegIdx) (hj : s.key[j] = true) (h : ∀ i, i < j → s.key[i] = false) :
    s.waitCheck = { s.setReg s.waitReg (BitVec.ofNat 8 j.val) with waiting := false } := by
  simp [State.waitCheck, (Keys.least_eq_some _ _).2 ⟨hj, h⟩]

/-- What the wait check can do. -/
theorem State.waitCheck_cases (s : State) :
    ((∀ j : RegIdx, s.key[j] = false) ∧ s.waitCheck = s) ∨
      ∃ j : RegIdx, s.key[j] = true ∧ (∀ i, i < j → s.key[i] = false) ∧
        s.waitCheck = { s.setReg s.waitReg (BitVec.ofNat 8 j.val) with waiting := false } := by
  cases h : s.key.least with
  | none => exact .inl ⟨(Keys.least_eq_none _).1 h, s.waitCheck_of_none ((Keys.least_eq_none _).1 h)⟩
  | some j =>
    have hj := (Keys.least_eq_some _ _).1 h
    exact .inr ⟨j, hj.1, hj.2, s.waitCheck_of_least j hj.1 hj.2⟩

/-! ### The display -/

theorem Display.pixel_setPixel (d : Display) (r r' : Fin 32) (c c' : Fin 64) (b : Bool) :
    (d.setPixel r c b).pixel r' c' = if r' = r ∧ c' = c then b else d.pixel r' c' := by
  by_cases hr : r' = r
  · subst hr
    by_cases hc : c' = c
    · subst hc; simp [Display.pixel, Display.setPixel]
    · have : c.val ≠ c'.val := fun e => hc (Fin.ext e.symm)
      simp [Display.pixel, Display.setPixel, hc, Vector.getElem_set_ne _ _ this]
  · have : r.val ≠ r'.val := fun e => hr (Fin.ext e.symm)
    simp [Display.pixel, Display.setPixel, hr, Vector.getElem_set_ne _ _ this]

@[simp] theorem Display.pixel_clear (r : Fin 32) (c : Fin 64) : Display.clear.pixel r c = false := by
  simp [Display.pixel, Display.clear]

/-- Two displays with the same pixels are the same. -/
theorem Display.ext_pixel {d d' : Display} (h : ∀ r c, d.pixel r c = d'.pixel r c) : d = d' := by
  apply Vector.ext
  intro r hr
  apply Vector.ext
  intro c hc
  exact h ⟨r, hr⟩ ⟨c, hc⟩

/-- How far a row lies below row `y`, modulo 32. -/
def rowOffset (y : Nat) (row : Fin 32) : Nat := (row.val + 31 * y) % 32

/-- How far a column lies to the right of column `x`, modulo 64. -/
def colOffset (x : Nat) (col : Fin 64) : Nat := (col.val + 63 * x) % 64

theorem wrapRow_eq_iff (y r : Nat) (row : Fin 32) (h : r < 32) : wrapRow (y + r) = row ↔ rowOffset y row = r := by
  have := row.isLt
  simp only [wrapRow, rowOffset, Fin.ext_iff, Fin.val_ofNat]
  omega

theorem wrapCol_eq_iff (x c : Nat) (col : Fin 64) (h : c < 64) : wrapCol (x + c) = col ↔ colOffset x col = c := by
  have := col.isLt
  simp only [wrapCol, colOffset, Fin.ext_iff, Fin.val_ofNat]
  omega

theorem Canvas.pixel_drawBit (k : Canvas) (r row : Fin 32) (c col : Fin 64) (bit : Bool) :
    (k.drawBit r c bit).disp.pixel row col = (k.disp.pixel row col ^^ (decide (row = r ∧ col = c) && bit)) := by
  simp only [Canvas.drawBit, Display.pixel_setPixel]
  by_cases h : row = r ∧ col = c
  · simp [h]
  · simp [h]

theorem Canvas.hit_drawBit (k : Canvas) (r : Fin 32) (c : Fin 64) (bit : Bool) :
    (k.drawBit r c bit).hit = true ↔ k.hit = true ∨ bit = true ∧ k.disp.pixel r c = true := by
  simp [Canvas.drawBit]

/-- The first `n` columns of a sprite row: what they do to each pixel and to the collision flag. -/
theorem Canvas.foldl_drawBit (k : Canvas) (r : Fin 32) (x0 : Nat) (b : Byte) (n : Nat) (hn : n ≤ 64) :
    let k' := (List.range n).foldl (fun k c => k.drawBit r (wrapCol (x0 + c)) (spriteBit b c)) k
    (∀ row col, k'.disp.pixel row col =
      (k.disp.pixel row col ^^ (decide (row = r) && decide (colOffset x0 col < n) && spriteBit b (colOffset x0 col)))) ∧
    (k'.hit = true ↔ k.hit = true ∨
      ∃ c, c < n ∧ spriteBit b c = true ∧ k.disp.pixel r (wrapCol (x0 + c)) = true) := by
  induction n with
  | zero => simp
  | succ n ih =>
    obtain ⟨hp, hh⟩ := ih (by omega)
    simp only [List.range_succ, List.foldl_append, List.foldl_cons, List.foldl_nil]
    constructor
    · intro row col
      rw [Canvas.pixel_drawBit, hp]
      by_cases hr : row = r
      · by_cases hc : col = wrapCol (x0 + n)
        · have ho : colOffset x0 col = n := (wrapCol_eq_iff x0 n col (by omega)).1 hc.symm
          simp [hr, hc, hc ▸ ho]
        · have ho : colOffset x0 col ≠ n := fun e => hc ((wrapCol_eq_iff x0 n col (by omega)).2 e).symm
          have : colOffset x0 col < n + 1 ↔ colOffset x0 col < n := by omega
          simp [hr, hc, this]
      · simp [hr]
    · have ho : colOffset x0 (wrapCol (x0 + n)) = n := (wrapCol_eq_iff x0 n _ (by omega)).1 rfl
      rw [Canvas.hit_drawBit, hh, hp, ho]
      constructor
      · rintro ((h | ⟨c, hc, h⟩) | h)
        · exact .inl h
        · exact .inr ⟨c, by omega, h⟩
        · exact .inr ⟨n, by omega, h.1, by simpa using h.2⟩
      · rintro (h | ⟨c, hc, h⟩)
        · exact .inl (.inl h)
        · by_cases hcn : c = n
          · subst hcn; exact .inr ⟨h.1, by simpa using h.2⟩
          · exact .inl (.inr ⟨c, by omega, h⟩)

/-- What one sprite row does to each pixel and to the collision flag. -/
theorem Canvas.drawRow_spec (k : Canvas) (r : Fin 32) (x0 : Nat) (b : Byte) :
    (∀ row col, (k.drawRow r x0 b).disp.pixel row col =
      (k.disp.pixel row col ^^ (decide (row = r) && decide (colOffset x0 col < 8) && spriteBit b (colOffset x0 col)))) ∧
    ((k.drawRow r x0 b).hit = true ↔ k.hit = true ∨
      ∃ c, c < 8 ∧ spriteBit b c = true ∧ k.disp.pixel r (wrapCol (x0 + c)) = true) :=
  k.foldl_drawBit r x0 b 8 (by omega)

/-- What a sprite of at most 32 rows does to each pixel and to the collision flag. -/
theorem Canvas.drawRows_spec (k : Canvas) (x0 y : Nat) (bs : List Byte) (hlen : bs.length ≤ 32) :
    (∀ row col, (k.drawRows x0 y bs).disp.pixel row col =
      (k.disp.pixel row col ^^ (decide (rowOffset y row < bs.length) && decide (colOffset x0 col < 8) &&
        spriteBit (bs.getD (rowOffset y row) 0) (colOffset x0 col)))) ∧
    ((k.drawRows x0 y bs).hit = true ↔ k.hit = true ∨
      ∃ r c, r < bs.length ∧ c < 8 ∧ spriteBit (bs.getD r 0) c = true ∧
        k.disp.pixel (wrapRow (y + r)) (wrapCol (x0 + c)) = true) := by
  induction bs generalizing k y with
  | nil => simp [Canvas.drawRows]
  | cons b bs ih =>
    simp only [List.length_cons] at hlen
    obtain ⟨hp, hh⟩ := ih (k.drawRow (wrapRow y) x0 b) (y + 1) (by omega)
    obtain ⟨rp, rh⟩ := k.drawRow_spec (wrapRow y) x0 b
    have h0 : ∀ row, row = wrapRow y ↔ rowOffset y row = 0 := fun row => by
      rw [← wrapRow_eq_iff y 0 row (by omega), Nat.add_zero, eq_comm]
    constructor
    · intro row col
      rw [Canvas.drawRows, hp, rp]
      have hoff0 : rowOffset y row = 0 → rowOffset (y + 1) row = 31 := by simp only [rowOffset]; omega
      have hoff1 : rowOffset y row ≠ 0 → rowOffset (y + 1) row + 1 = rowOffset y row := by simp only [rowOffset]; omega
      by_cases hz : rowOffset y row = 0
      · have hnot : ¬ (31 < bs.length) := by omega
        have hrow : (row = wrapRow y) = True := eq_true ((h0 row).2 hz)
        simp only [hz, hoff0 hz, hrow, hnot]
        simp
      · have hne : ¬ row = wrapRow y := fun e => hz ((h0 row).1 e)
        simp only [hne, ← hoff1 hz]
        simp
    · rw [Canvas.drawRows, hh, rh, or_assoc]
      apply or_congr_right
      have keep : ∀ r c, r < bs.length →
          (k.drawRow (wrapRow y) x0 b).disp.pixel (wrapRow (y + 1 + r)) (wrapCol (x0 + c)) =
            k.disp.pixel (wrapRow (y + 1 + r)) (wrapCol (x0 + c)) := by
        intro r c hr
        have hne : ¬ wrapRow (y + 1 + r) = wrapRow y := by
          rw [h0, (wrapRow_eq_iff y (1 + r) _ (by omega)).1 (by rw [Nat.add_assoc])]
          omega
        rw [rp]; simp [hne]
      constructor
      · rintro (⟨c, hc, h⟩ | ⟨r, c, hr, hc, hb, hd⟩)
        · exact ⟨0, c, by simp, hc, by simpa using h⟩
        · rw [keep r c hr] at hd
          exact ⟨r + 1, c, by simp [hr], hc, by simpa using hb, by rw [← hd]; congr 2; omega⟩
      · rintro ⟨r, c, hr, hc, hb, hd⟩
        cases r with
        | zero => exact .inl ⟨c, hc, by simpa using hb, hd⟩
        | succ r =>
          simp only [List.length_cons, Nat.add_lt_add_iff_right] at hr
          refine .inr ⟨r, c, hr, hc, by simpa using hb, ?_⟩
          rw [keep r c hr, ← hd]; congr 2; omega

end Sys2Proof.Machine
end

