-- ==== Sys2Proof/Laws/Exec.lean ====
section
/-! SUPPORT. What an instruction can do and what a tick can do, each said once: every proof about all instructions or all ticks starts
from here. -/

namespace Sys2Proof.Machine

/-- An instruction either takes the one fault the table of causes gives it in this state, or goes on to a next state with the latch
as it was. -/
theorem exec_cases (i : Instr) (s : State) :
    (∃ c a, faultOf i s = some c ∧ c ≠ .fetchOutOfRange ∧ exec i s = .next (s.raise c (some (encodeWord i)) a)) ∨
      (faultOf i s = none ∧ ∃ t, exec i s = .next t ∧ t.fault = s.fault) := by
  cases i with
  | op00EE =>
    obtain ⟨h, hp⟩ | ⟨k, hk, hp⟩ := s.pop_cases
    · exact .inl ⟨.stackUnderflow, none, by simp [faultOf, h], by decide, by simp [exec, exec00EE, hp]⟩
    · exact .inr ⟨by simp [faultOf, hk], by simp only [exec, exec00EE, hp]; exact ⟨_, rfl, rfl⟩⟩
  | op2NNN nnn =>
    obtain ⟨h, hp⟩ | ⟨h, hp⟩ := s.push_cases s.pc
    · exact .inl ⟨.stackOverflow, none, by simp [faultOf, h], by decide, by simp [exec, exec2NNN, hp]⟩
    · exact .inr ⟨by simp only [faultOf]; rw [if_neg (by omega)], by simp only [exec, exec2NNN, hp]; exact ⟨_, rfl, rfl⟩⟩
  | opDXYN x y n =>
    obtain ⟨h, hp⟩ | ⟨h, h', hp⟩ := outOfRange_cases s.i.toNat n.toNat
    · exact .inr ⟨by simp only [faultOf]; rw [if_neg (by omega)], by simp only [exec, execDXYN, hp]; exact ⟨_, rfl, rfl⟩⟩
    · exact .inl ⟨.memOutOfRange, _, by simp only [faultOf]; rw [if_pos ⟨h, h'⟩], by decide,
        by simp only [exec, execDXYN, hp]; rfl⟩
  | opFX33 x =>
    obtain ⟨h, hp⟩ | ⟨h, h', hp⟩ := outOfRange_cases s.i.toNat 3
    · exact .inr ⟨by simp only [faultOf]; rw [if_neg (by omega)], by simp only [exec, execFX33, hp]; exact ⟨_, rfl, rfl⟩⟩
    · exact .inl ⟨.memOutOfRange, _, by simp only [faultOf]; rw [if_pos (by omega)], by decide,
        by simp only [exec, execFX33, hp]; rfl⟩
  | opFX55 x =>
    obtain ⟨h, hp⟩ | ⟨h, h', hp⟩ := outOfRange_cases s.i.toNat (x.val + 1)
    · exact .inr ⟨by simp only [faultOf]; rw [if_neg (by omega)], by simp only [exec, execFX55, hp]; exact ⟨_, rfl, rfl⟩⟩
    · exact .inl ⟨.memOutOfRange, _, by simp only [faultOf]; rw [if_pos (by omega)], by decide,
        by simp only [exec, execFX55, hp]; rfl⟩
  | opFX65 x =>
    obtain ⟨h, hp⟩ | ⟨h, h', hp⟩ := outOfRange_cases s.i.toNat (x.val + 1)
    · exact .inr ⟨by simp only [faultOf]; rw [if_neg (by omega)], by simp only [exec, execFX65, hp]; exact ⟨_, rfl, rfl⟩⟩
    · exact .inl ⟨.memOutOfRange, _, by simp only [faultOf]; rw [if_pos (by omega)], by decide,
        by simp only [exec, execFX65, hp]; rfl⟩
  | opEX9E x =>
    obtain ⟨h, hp⟩ | ⟨k, hk, hp⟩ := keyAt_cases s (s.reg x)
    · exact .inl ⟨.keyOutOfRange, _, by simp only [faultOf]; rw [if_pos h], by decide, by simp only [exec, execEX9E, hp]; rfl⟩
    · exact .inr ⟨by simp only [faultOf]; rw [if_neg (by omega)], by simp only [exec, execEX9E, hp]; exact ⟨_, rfl, rfl⟩⟩
  | opEXA1 x =>
    obtain ⟨h, hp⟩ | ⟨k, hk, hp⟩ := keyAt_cases s (s.reg x)
    · exact .inl ⟨.keyOutOfRange, _, by simp only [faultOf]; rw [if_pos h], by decide, by simp only [exec, execEXA1, hp]; rfl⟩
    · exact .inr ⟨by simp only [faultOf]; rw [if_neg (by omega)], by simp only [exec, execEXA1, hp]; exact ⟨_, rfl, rfl⟩⟩
  | _ => exact .inr ⟨rfl, _, rfl, rfl⟩

/-- What a tick can do, after the latches are sampled: a faulted core nothing; a waiting one the wait check; a running one a fetch
fault, an unknown encoding with the countdown, an instruction's fault, or an instruction with the countdown. -/
theorem step_cases (s : State) :
    (s.fault.isSome = true ∧ step s = .next s.sampleKeys) ∨
    (s.fault = none ∧ s.waiting = true ∧ step s = .next s.sampleKeys.waitCheck) ∨
    (s.Running ∧ 0xFFE < s.pc.toNat ∧ step s = .next (s.sampleKeys.raise .fetchOutOfRange none none)) ∨
    (s.Running ∧ s.pc.toNat ≤ 0xFFE ∧ (∃ e, decodeWord s.fetchWord = .error e) ∧
      step s = .next (s.sampleKeys.emit s.fetchWord).advance.countdown) ∨
    (∃ i c a, s.Running ∧ s.pc.toNat ≤ 0xFFE ∧ decodeWord s.fetchWord = .ok i ∧ faultOf i s = some c ∧ c ≠ .fetchOutOfRange ∧
      step s = .next (s.sampleKeys.raise c (some (encodeWord i)) a)) ∨
    (∃ i t, s.Running ∧ s.pc.toNat ≤ 0xFFE ∧ decodeWord s.fetchWord = .ok i ∧ faultOf i s = none ∧
      exec i s.sampleKeys = .next t ∧ t.fault = none ∧ step s = .next t.countdown) := by
  have hw : s.sampleKeys.fetchWord = s.fetchWord := rfl
  have hf : ∀ i, faultOf i s.sampleKeys = faultOf i s := fun i => by cases i <;> rfl
  cases h1 : s.fault with
  | some r => exact .inl ⟨rfl, by simp [step, tick, tickBody, h1]⟩
  | none =>
    refine .inr ?_
    by_cases h2 : s.waiting = true
    · exact .inl ⟨rfl, h2, by simp [step, tick, tickBody, h1, h2]⟩
    · have hrun : s.Running := ⟨h1, by simpa using h2⟩
      refine .inr ?_
      by_cases h3 : 0xFFE < s.pc.toNat
      · exact .inl ⟨hrun, h3, by simp [step, tick, tickBody, h1, h2, h3, Config.lastFetch]⟩
      · refine .inr ?_
        have hstep : step s = finishTick (execWord s.fetchWord s.sampleKeys) := by
          simp [step, tick, tickBody, h1, h2, h3, Config.lastFetch, hw]
        cases hd : decodeWord s.fetchWord with
        | error e =>
          refine .inl ⟨hrun, by omega, ⟨e, rfl⟩, ?_⟩
          rw [hstep]; simp [execWord, hd, execUnknown, finishTick, h1]
        | ok i =>
          refine .inr ?_
          obtain ⟨c, a, hc, hne, he⟩ | ⟨hc, t, he, ht⟩ := exec_cases i s.sampleKeys
          · refine .inl ⟨i, c, a, hrun, by omega, rfl, (hf i).symm.trans hc, hne, ?_⟩
            rw [hstep]; simp [execWord, hd, he, finishTick]
          · have ht' : t.fault = none := by rw [ht]; exact h1
            refine .inr ⟨i, t, hrun, by omega, rfl, (hf i).symm.trans hc, he, ht', ?_⟩
            rw [hstep]; simp [execWord, hd, he, finishTick, ht']

end Sys2Proof.Machine
end

