-- ==== Sys2Proof/Laws/PerInstr.lean ====
section
/-! SUPPORT. The statements made of every instruction, one lemma per constructor. The family Encoding: an instruction is well-formed,
takes two bytes (30_encoding R60), and its word matches its row of the opcode table (30_encoding R64). -/

namespace Sys2Proof.Laws

theorem and_full (t : Nibble) : t &&& 0xF#4 = t := BitVec.and_allOnes

theorem and_full8 (b : Byte) : b &&& 0xFF#8 = b := BitVec.and_allOnes

theorem wordAddr_and_F000 (t : Nibble) (nnn : Addr12) : wordAddr t nnn &&& 0xF000#16 = wordAddr t 0 :=
  (BitVec.and_append (x₂ := 0xF#4) (y₂ := 0x000#12)).trans (by rw [and_full]; simp [wordAddr])

theorem wordXKK_and_F000 (t : Nibble) (x : RegIdx) (kk : Byte) : wordXKK t x kk &&& 0xF000#16 = wordXKK t 0 0 :=
  (BitVec.and_append (x₂ := 0xF0#8) (y₂ := 0x00#8)).trans (by
    rw [show (0xF0#8 : BitVec (4 + 4)) = 0xF#4 ++ 0x0#4 from rfl, BitVec.and_append, and_full]; simp [wordXKK, nibbleOfReg])

theorem wordXKK_and_F0FF (t : Nibble) (x : RegIdx) (kk : Byte) : wordXKK t x kk &&& 0xF0FF#16 = wordXKK t 0 kk :=
  (BitVec.and_append (x₂ := 0xF0#8) (y₂ := 0xFF#8)).trans (by
    rw [show (0xF0#8 : BitVec (4 + 4)) = 0xF#4 ++ 0x0#4 from rfl, BitVec.and_append, and_full, and_full8]
    simp [wordXKK, nibbleOfReg])

theorem wordXYN_and_F00F (t : Nibble) (x y : RegIdx) (n : Nibble) : wordXYN t x y n &&& 0xF00F#16 = wordXYN t 0 0 n :=
  (BitVec.and_append (x₂ := 0xF00#12) (y₂ := 0xF#4)).trans (by
    rw [show (0xF00#12 : BitVec (4 + 4 + 4)) = 0xF#4 ++ 0x0#4 ++ 0x0#4 from rfl, BitVec.and_append, BitVec.and_append, and_full,
      and_full]
    simp [wordXYN, nibbleOfReg])

theorem wordXYN_and_F000 (t : Nibble) (x y : RegIdx) (n : Nibble) : wordXYN t x y n &&& 0xF000#16 = wordXYN t 0 0 0 :=
  (BitVec.and_append (x₂ := 0xF00#12) (y₂ := 0x0#4)).trans (by
    rw [show (0xF00#12 : BitVec (4 + 4 + 4)) = 0xF#4 ++ 0x0#4 ++ 0x0#4 from rfl, BitVec.and_append, BitVec.and_append, and_full]
    simp [wordXYN, nibbleOfReg])

/-- An instruction is well-formed, two bytes long, and its word matches its row. -/
def Encoding.Statement (i : Instr) : Prop :=
  i.wf = true ∧ (encode i).length = 2 ∧ i.row.accepts (encodeWord i) = true

theorem Encoding.of_match {i : Instr} (h : encodeWord i &&& i.row.mask = i.row.pattern) : Encoding.Statement i :=
  ⟨instr_wf i, rfl, by simp [Row.accepts, h]⟩

theorem Encoding.op00E0 : Encoding.Statement .op00E0 :=
  Encoding.of_match rfl

theorem Encoding.op00EE : Encoding.Statement .op00EE :=
  Encoding.of_match rfl

theorem Encoding.op1NNN (nnn : Addr12) : Encoding.Statement (.op1NNN nnn) :=
  Encoding.of_match (wordAddr_and_F000 _ nnn)

theorem Encoding.op2NNN (nnn : Addr12) : Encoding.Statement (.op2NNN nnn) :=
  Encoding.of_match (wordAddr_and_F000 _ nnn)

theorem Encoding.op3XKK (x : RegIdx) (kk : Byte) : Encoding.Statement (.op3XKK x kk) :=
  Encoding.of_match (wordXKK_and_F000 _ x kk)

theorem Encoding.op4XKK (x : RegIdx) (kk : Byte) : Encoding.Statement (.op4XKK x kk) :=
  Encoding.of_match (wordXKK_and_F000 _ x kk)

theorem Encoding.op5XY0 (x y : RegIdx) : Encoding.Statement (.op5XY0 x y) :=
  Encoding.of_match (wordXYN_and_F00F _ x y _)

theorem Encoding.op6XKK (x : RegIdx) (kk : Byte) : Encoding.Statement (.op6XKK x kk) :=
  Encoding.of_match (wordXKK_and_F000 _ x kk)

theorem Encoding.op7XKK (x : RegIdx) (kk : Byte) : Encoding.Statement (.op7XKK x kk) :=
  Encoding.of_match (wordXKK_and_F000 _ x kk)

theorem Encoding.op8XY0 (x y : RegIdx) : Encoding.Statement (.op8XY0 x y) :=
  Encoding.of_match (wordXYN_and_F00F _ x y _)

theorem Encoding.op8XY1 (x y : RegIdx) : Encoding.Statement (.op8XY1 x y) :=
  Encoding.of_match (wordXYN_and_F00F _ x y _)

theorem Encoding.op8XY2 (x y : RegIdx) : Encoding.Statement (.op8XY2 x y) :=
  Encoding.of_match (wordXYN_and_F00F _ x y _)

theorem Encoding.op8XY3 (x y : RegIdx) : Encoding.Statement (.op8XY3 x y) :=
  Encoding.of_match (wordXYN_and_F00F _ x y _)

theorem Encoding.op8XY4 (x y : RegIdx) : Encoding.Statement (.op8XY4 x y) :=
  Encoding.of_match (wordXYN_and_F00F _ x y _)

theorem Encoding.op8XY5 (x y : RegIdx) : Encoding.Statement (.op8XY5 x y) :=
  Encoding.of_match (wordXYN_and_F00F _ x y _)

theorem Encoding.op8XY6 (x y : RegIdx) : Encoding.Statement (.op8XY6 x y) :=
  Encoding.of_match (wordXYN_and_F00F _ x y _)

theorem Encoding.op8XY7 (x y : RegIdx) : Encoding.Statement (.op8XY7 x y) :=
  Encoding.of_match (wordXYN_and_F00F _ x y _)

theorem Encoding.op8XYE (x y : RegIdx) : Encoding.Statement (.op8XYE x y) :=
  Encoding.of_match (wordXYN_and_F00F _ x y _)

theorem Encoding.op9XY0 (x y : RegIdx) : Encoding.Statement (.op9XY0 x y) :=
  Encoding.of_match (wordXYN_and_F00F _ x y _)

theorem Encoding.opANNN (nnn : Addr12) : Encoding.Statement (.opANNN nnn) :=
  Encoding.of_match (wordAddr_and_F000 _ nnn)

theorem Encoding.opBNNN (nnn : Addr12) : Encoding.Statement (.opBNNN nnn) :=
  Encoding.of_match (wordAddr_and_F000 _ nnn)

theorem Encoding.opCXKK (x : RegIdx) (kk : Byte) : Encoding.Statement (.opCXKK x kk) :=
  Encoding.of_match (wordXKK_and_F000 _ x kk)

theorem Encoding.opDXYN (x y : RegIdx) (n : Nibble) : Encoding.Statement (.opDXYN x y n) :=
  Encoding.of_match (wordXYN_and_F000 _ x y n)

theorem Encoding.opEX9E (x : RegIdx) : Encoding.Statement (.opEX9E x) :=
  Encoding.of_match (wordXKK_and_F0FF _ x _)

theorem Encoding.opEXA1 (x : RegIdx) : Encoding.Statement (.opEXA1 x) :=
  Encoding.of_match (wordXKK_and_F0FF _ x _)

theorem Encoding.opFX07 (x : RegIdx) : Encoding.Statement (.opFX07 x) :=
  Encoding.of_match (wordXKK_and_F0FF _ x _)

theorem Encoding.opFX0A (x : RegIdx) : Encoding.Statement (.opFX0A x) :=
  Encoding.of_match (wordXKK_and_F0FF _ x _)

theorem Encoding.opFX15 (x : RegIdx) : Encoding.Statement (.opFX15 x) :=
  Encoding.of_match (wordXKK_and_F0FF _ x _)

theorem Encoding.opFX18 (x : RegIdx) : Encoding.Statement (.opFX18 x) :=
  Encoding.of_match (wordXKK_and_F0FF _ x _)

theorem Encoding.opFX1E (x : RegIdx) : Encoding.Statement (.opFX1E x) :=
  Encoding.of_match (wordXKK_and_F0FF _ x _)

theorem Encoding.opFX29 (x : RegIdx) : Encoding.Statement (.opFX29 x) :=
  Encoding.of_match (wordXKK_and_F0FF _ x _)

theorem Encoding.opFX33 (x : RegIdx) : Encoding.Statement (.opFX33 x) :=
  Encoding.of_match (wordXKK_and_F0FF _ x _)

theorem Encoding.opFX55 (x : RegIdx) : Encoding.Statement (.opFX55 x) :=
  Encoding.of_match (wordXKK_and_F0FF _ x _)

theorem Encoding.opFX65 (x : RegIdx) : Encoding.Statement (.opFX65 x) :=
  Encoding.of_match (wordXKK_and_F0FF _ x _)

end Sys2Proof.Laws
end

