-- ==== Sys2Proof/Tests/Slice0.lean ====
section
/-! SUPPORT. Tests: the checks of WellFormed and Memory on terms they refuse, words decoded, one step of each instruction, the tick, and
a witness for every statement with hypotheses. Expected results are from spec/95_test_vectors.md (its section in the comment of each
group) and from the rules; programs of many steps are not run. -/

namespace Sys2Proof.Tests

open Sys2Proof.Machine

/-! ### WellFormed and the canonical memory: what each check refuses -/

theorem test_reg_sixteen_refused : regOk 16 = false := by decide
theorem test_addr_4096_refused : addrOk 4096 = false := by decide
theorem test_byte_256_refused : byteOk 256 = false := by decide
theorem test_rows_16_refused : rowsOk 16 = false := by decide
theorem test_instr_wf : (Instr.opDXYN 15 15 15).wf = true := by decide
theorem test_wf_refuses_falling_addresses : Memory.wf [(0x301, 1), (0x300, 1)] = false := by decide
theorem test_wf_refuses_default_entry : Memory.wf [(0, 0xF0)] = false := by decide
theorem test_wf_refuses_address_4096 : Memory.wf [(4096, 1)] = false := by decide
theorem test_write_of_default_removes : Memory.write [(0x300, 7)] 0x300 0 = [] := by decide

/-! ### Decoding: words of 95_test_vectors section 2, and words written out digit by digit from 30_encoding R64 -/

theorem test_decode_00E0 : decodeWord 0x00E0 = .ok .op00E0 := by decide
theorem test_decode_00EE : decodeWord 0x00EE = .ok .op00EE := by decide
theorem test_decode_1NNN : decodeWord 0x1234 = .ok (.op1NNN 0x234) := by decide
theorem test_decode_2NNN : decodeWord 0x2FFF = .ok (.op2NNN 0xFFF) := by decide
theorem test_decode_3XKK : decodeWord 0x3A42 = .ok (.op3XKK 0xA 0x42) := by decide
theorem test_decode_4XKK : decodeWord 0x432A = .ok (.op4XKK 3 0x2A) := by decide
theorem test_decode_5XY0 : decodeWord 0x5AB0 = .ok (.op5XY0 0xA 0xB) := by decide
theorem test_decode_6XKK : decodeWord 0x6A2F = .ok (.op6XKK 0xA 0x2F) := by decide
theorem test_decode_7XKK : decodeWord 0x7203 = .ok (.op7XKK 2 3) := by decide
theorem test_decode_8XY0 : decodeWord 0x8010 = .ok (.op8XY0 0 1) := by decide
theorem test_decode_8XY1 : decodeWord 0x8121 = .ok (.op8XY1 1 2) := by decide
theorem test_decode_8XY2 : decodeWord 0x8122 = .ok (.op8XY2 1 2) := by decide
theorem test_decode_8XY3 : decodeWord 0x8123 = .ok (.op8XY3 1 2) := by decide
theorem test_decode_8XY4 : decodeWord 0x8124 = .ok (.op8XY4 1 2) := by decide
theorem test_decode_8XY5 : decodeWord 0x8125 = .ok (.op8XY5 1 2) := by decide
theorem test_decode_8XY6 : decodeWord 0x84A6 = .ok (.op8XY6 4 0xA) := by decide
theorem test_decode_8XY7 : decodeWord 0x8AB7 = .ok (.op8XY7 0xA 0xB) := by decide
theorem test_decode_8XYE : decodeWord 0x8ABE = .ok (.op8XYE 0xA 0xB) := by decide
theorem test_decode_9XY0 : decodeWord 0x9AB0 = .ok (.op9XY0 0xA 0xB) := by decide
theorem test_decode_ANNN : decodeWord 0xA2F0 = .ok (.opANNN 0x2F0) := by decide
theorem test_decode_BNNN : decodeWord 0xB001 = .ok (.opBNNN 0x001) := by decide
theorem test_decode_CXKK : decodeWord 0xC30F = .ok (.opCXKK 3 0x0F) := by decide
theorem test_decode_DXYN : decodeWord 0xD01F = .ok (.opDXYN 0 1 15) := by decide
theorem test_decode_EX9E : decodeWord 0xEA9E = .ok (.opEX9E 0xA) := by decide
theorem test_decode_EXA1 : decodeWord 0xEAA1 = .ok (.opEXA1 0xA) := by decide
theorem test_decode_FX07 : decodeWord 0xF107 = .ok (.opFX07 1) := by decide
theorem test_decode_FX0A : decodeWord 0xF00A = .ok (.opFX0A 0) := by decide
theorem test_decode_FX15 : decodeWord 0xF015 = .ok (.opFX15 0) := by decide
theorem test_decode_FX18 : decodeWord 0xF018 = .ok (.opFX18 0) := by decide
theorem test_decode_FX1E : decodeWord 0xF21E = .ok (.opFX1E 2) := by decide
theorem test_decode_FX29 : decodeWord 0xF029 = .ok (.opFX29 0) := by decide
theorem test_decode_FX33 : decodeWord 0xF033 = .ok (.opFX33 0) := by decide
theorem test_decode_FX55 : decodeWord 0xF255 = .ok (.opFX55 2) := by decide
theorem test_decode_FX65 : decodeWord 0xFA65 = .ok (.opFX65 0xA) := by decide
theorem test_decode_zero_unknown : decodeWord 0x0000 = .error (.unknown 0x0000) := by decide
theorem test_decode_512F_unknown : decodeWord 0x512F = .error (.unknown 0x512F) := by decide
theorem test_decode_812D_unknown : decodeWord 0x812D = .error (.unknown 0x812D) := by decide
theorem test_decode_E0A2_unknown : decodeWord 0xE0A2 = .error (.unknown 0xE0A2) := by decide
theorem test_decode_F11F_unknown : decodeWord 0xF11F = .error (.unknown 0xF11F) := by decide
theorem test_decode_one_byte_truncated : decode [0x12] = .error .truncated := by decide
theorem test_decode_leaves_the_rest : decode [0x8A, 0xB7, 0x55] = .ok (.op8XY7 0xA 0xB, [0x55]) := by decide
theorem test_encode_8XY4 : encode (.op8XY4 0xA 0xB) = [0x8A, 0xB4] := by decide

/-! ### Helpers: a word at 0x200 of the reset state, registers set, one step taken -/

/-- The reset state with a word at 0x200. -/
def at200 (w : Nat) : State := State.reset.withFetchWord 16 w

/-- Registers set. -/
def withRegs (s : State) (rs : List (RegIdx × Byte)) : State := rs.foldl (fun s r => s.setReg r.1 r.2) s

/-- Latches from a 16-bit number whose bit k is latch k (95_test_vectors, conventions). -/
def keysOf (w : Word) : Keys := Vector.ofFn fun k : Fin 16 => w.getLsbD k.val

/-- The state after one step. -/
def after (s : State) : State :=
  match step s with
  | .next t => t
  | .fault _ => s
  | .refused _ => s

/-- The fault latched, as the vectors write it: cause(pc, opcode, addr). -/
def faultIs (s : State) (c : Fault) (pc : Word) (op : Option Word) (a : Option Nat) : Bool :=
  s.fault == some ⟨c, pc, op, a⟩

/-! ### One step of each instruction (95_test_vectors sections 1, 3 to 8) -/

theorem test_1NNN : (after (at200 0x1234)).pc = 0x234 := by decide
theorem test_BNNN_not_reduced : (after (withRegs (at200 0xBFFF) [(0, 0xFF)])).pc = 0x10FE := by decide
theorem test_2NNN_pushes_own_address :
    (after (at200 0x2ABC)).stack[0] = 0x200 ∧ (after (at200 0x2ABC)).sp = 1 ∧ (after (at200 0x2ABC)).pc = 0xABC := by decide
theorem test_2NNN_overflow :
    faultIs (after { at200 0x2ABC with sp := 16 }) .stackOverflow 0x200 (some 0x2ABC) none = true := by decide
theorem test_00EE_adds_two :
    (after { at200 0x00EE with sp := 1, stack := State.reset.stack.set 0 0x204 }).pc = 0x206 := by decide
theorem test_00EE_underflow : faultIs (after (at200 0x00EE)) .stackUnderflow 0x200 (some 0x00EE) none = true := by decide
theorem test_3XKK_taken : (after (withRegs (at200 0x3A42) [(0xA, 0x42)])).pc = 0x204 := by decide
theorem test_3XKK_not_taken : (after (withRegs (at200 0x3A42) [(0xA, 0x43)])).pc = 0x202 := by decide
theorem test_4XKK_not_taken : (after (withRegs (at200 0x4A42) [(0xA, 0x42)])).pc = 0x202 := by decide
theorem test_4XKK_taken : (after (withRegs (at200 0x4A42) [(0xA, 0x43)])).pc = 0x204 := by decide
theorem test_5XY0_taken : (after (withRegs (at200 0x5120) [(1, 7), (2, 7)])).pc = 0x204 := by decide
theorem test_9XY0_taken : (after (withRegs (at200 0x9120) [(1, 7), (2, 8)])).pc = 0x204 := by decide
theorem test_EX9E_every_key_but_it :
    (after (withRegs { at200 0xE29E with key := keysOf 0xFFDF } [(2, 5)])).pc = 0x202 := by decide
theorem test_EX9E_index_16 :
    faultIs (after (withRegs { at200 0xE29E with key := keysOf 0xFFFF } [(2, 0x10)])) .keyOutOfRange 0x200 (some 0xE29E)
      (some 0x10) = true := by decide
theorem test_EXA1_key_down : (after (withRegs { at200 0xE2A1 with key := keysOf 0x0020 } [(2, 5)])).pc = 0x202 := by decide
theorem test_EXA1_index_FF :
    faultIs (after (withRegs (at200 0xE2A1) [(2, 0xFF)])) .keyOutOfRange 0x200 (some 0xE2A1) (some 0xFF) = true := by decide
theorem test_6XKK : (after (at200 0x6A2F)).reg 0xA = 0x2F := by decide
theorem test_7XKK_no_flag :
    let s := after (withRegs (at200 0x7203) [(2, 0xFE), (0xF, 0x07)])
    s.reg 2 = 0x01 ∧ s.reg 0xF = 0x07 := by decide
theorem test_8XY0_reads_vf : (after (withRegs (at200 0x81F0) [(0xF, 1), (1, 9)])).reg 1 = 1 := by decide
theorem test_8XY1 : (after (withRegs (at200 0x8121) [(1, 0xF0), (2, 0x0F)])).reg 1 = 0xFF := by decide
theorem test_8XY2 : (after (withRegs (at200 0x8122) [(1, 0xF3), (2, 0x3F)])).reg 1 = 0x33 := by decide
theorem test_8XY3 : (after (withRegs (at200 0x8123) [(1, 0xFF), (2, 0x0F)])).reg 1 = 0xF0 := by decide
theorem test_8XY4_carry :
    let s := after (withRegs (at200 0x8124) [(1, 0xFF), (2, 0x01)])
    s.reg 1 = 0 ∧ s.reg 2 = 1 ∧ s.reg 0xF = 1 := by decide
theorem test_8XY4_flag_last : (after (withRegs (at200 0x8F14) [(0xF, 0x10), (1, 0x20)])).reg 0xF = 0 := by decide
theorem test_8XY5_borrow :
    let s := after (withRegs (at200 0x8125) [(1, 0x01), (2, 0x02)])
    s.reg 1 = 0xFF ∧ s.reg 0xF = 0 := by decide
theorem test_8XY5_equal :
    let s := after (withRegs (at200 0x8125) [(1, 5), (2, 5)])
    s.reg 1 = 0 ∧ s.reg 0xF = 1 := by decide
theorem test_8XY6_ignores_y :
    let s := after (withRegs (at200 0x8126) [(1, 0x03), (2, 0xF0)])
    s.reg 1 = 1 ∧ s.reg 2 = 0xF0 ∧ s.reg 0xF = 1 := by decide
theorem test_8XY7 :
    let s := after (withRegs (at200 0x8017) [(0, 0x0A), (1, 0x0F)])
    s.reg 0 = 5 ∧ s.reg 0xF = 1 := by decide
theorem test_8XYE :
    let s := after (withRegs (at200 0x812E) [(1, 0x81), (2, 0xF0)])
    s.reg 1 = 2 ∧ s.reg 2 = 0xF0 ∧ s.reg 0xF = 1 := by decide
theorem test_CXKK_listed_byte : (after { at200 0xC30F with rndInputs := [0xB7] }).reg 3 = 0x07 := by decide
theorem test_CXKK_mask_zero : (after { at200 0xC300 with rndInputs := [0xFF] }).reg 3 = 0 := by decide
theorem test_ANNN : (after (at200 0xA2F0)).i = 0x2F0 := by decide
theorem test_FX1E_threshold :
    let s := after (withRegs { at200 0xF21E with i := 0x0FFF } [(2, 1), (0xF, 1)])
    s.i = 0x1000 ∧ s.reg 0xF = 0 := by decide
theorem test_FX1E_carry :
    let s := after (withRegs { at200 0xF21E with i := 0xFF01 } [(2, 0xFF)])
    s.i = 0 ∧ s.reg 0xF = 1 := by decide
theorem test_FX29_not_masked : (after (withRegs (at200 0xF029) [(0, 0xFF)])).i = 0x4FB := by decide
theorem test_FX33 :
    let s := after (withRegs { at200 0xF033 with i := 0x300 } [(0, 0xFE)])
    s.mem.readBytes 0x300 3 = [2, 5, 4] ∧ s.i = 0x300 := by decide
theorem test_FX33_partly_outside :
    let s := after (withRegs { at200 0xF033 with i := 0xFFE } [(0, 9)])
    faultIs s .memOutOfRange 0x200 (some 0xF033) (some 0x1000) = true ∧ s.mem.read 0xFFE = 0 := by decide
theorem test_FX55 :
    (after (withRegs { at200 0xF255 with i := 0x400 } [(0, 1), (1, 2), (2, 3)])).mem.readBytes 0x400 4 = [1, 2, 3, 0] := by decide
theorem test_FX55_last_fit :
    (after (withRegs { at200 0xFF55 with i := 0xFF0 } [(0, 1), (0xF, 0xEE)])).mem.read 0xFFF = 0xEE := by decide
theorem test_FX65 :
    let s := after (withRegs { at200 0xF265 with i := 0x200 } [(3, 0x99)])
    s.reg 0 = 0xF2 ∧ s.reg 1 = 0x65 ∧ s.reg 2 = 0 ∧ s.reg 3 = 0x99 := by decide
theorem test_FX65_outside :
    faultIs (after { at200 0xF265 with i := 0x1FFF }) .memOutOfRange 0x200 (some 0xF265) (some 0x1FFF) = true := by decide
theorem test_00E0 :
    let s := after { at200 0x00E0 with disp := State.reset.disp.setPixel 31 63 true }
    s.disp = State.reset.disp := by decide
theorem test_DXYN_wraps :
    let s := after (withRegs { at200 0xD011 with i := 0x300, mem := Memory.write (at200 0xD011).mem 0x300 0xFF } [(0, 60)])
    s.disp.pixel 0 63 = true ∧ s.disp.pixel 0 3 = true ∧ s.disp.pixel 0 4 = false ∧ s.reg 0xF = 0 := by decide
theorem test_DXYN_vf_as_x :
    let s := after (withRegs { at200 0xDF01 with
      i := 0x300, mem := Memory.write (at200 0xDF01).mem 0x300 0x80, disp := State.reset.disp.setPixel 3 5 true }
      [(0, 3), (0xF, 5)])
    s.disp.pixel 3 5 = false ∧ s.reg 0xF = 1 := by decide
theorem test_FX07_before_countdown :
    (after { at200 0xF107 with dt := 8 }).reg 1 = 8 ∧ (after { at200 0xF107 with dt := 8 }).dt = 7 := by decide
theorem test_FX15_counts_at_once : (after (withRegs (at200 0xF015) [(0, 10)])).dt = 9 := by decide
theorem test_FX18_counts_at_once : (after (withRegs (at200 0xF018) [(0, 3)])).st = 2 := by decide
theorem test_FX0A_enters_the_wait :
    let s := after { at200 0xF30A with dt := 9 }
    s.status = .waitingForKey ∧ s.waitReg = 3 ∧ s.pc = 0x202 ∧ s.dt = 8 := by decide

/-! ### The tick (95_test_vectors sections 2, 8, 9) -/

theorem test_wait_resolves_on_least_key :
    let s := after { State.reset with waiting := true, waitReg := 5, dt := 8, keyInputs := [keysOf 0x0108] }
    s.reg 5 = 3 ∧ s.waiting = false ∧ s.pc = 0x200 ∧ s.dt = 8 := by decide
theorem test_unknown_word :
    let s := after { at200 0x5121 with dt := 2, st := 1 }
    s.pc = 0x202 ∧ s.dt = 1 ∧ s.st = 0 ∧ s.diag = [⟨0x5121, 0x200⟩] := by decide
theorem test_fetch_past_the_end :
    faultIs (after { State.reset with pc := 0x1000 }) .fetchOutOfRange 0x1000 none none = true := by decide
theorem test_fetch_at_odd_address :
    (after { State.reset with pc := 0x203, mem := [(0x203, 0x60), (0x204, 0x2A)] }).reg 0 = 0x2A := by decide
theorem test_default_font_glyph_A : State.reset.mem.readBytes 50 5 = [0xF0, 0x90, 0xF0, 0x90, 0x90] := by decide
theorem test_table_word : decodeTableWord 16 0x8AB4 = some (.op8XY4 0xA 0xB) := by decide

/-! ### Witnesses: for each statement with hypotheses, states and operands that meet them, a clause at a time, at the ends of the
ranges -/

/-- A waiting state with the latches of the coming tick listed. -/
def waitingWith (w : Word) : State := { State.reset with waiting := true, waitReg := 15, keyInputs := [keysOf w] }

/-- A faulted state. -/
def faulted : State := { State.reset with fault := some ⟨.stackUnderflow, 0x200, some 0x00EE, none⟩ }

/-- A word at 0xFFE, the last address an instruction is fetched from. -/
def atTheEnd (w : Nat) : State := { State.reset with pc := 0xFFE }.withFetchWord 16 w

theorem witness_WordDecodesToARowExactlyWhenItMatches :
    decodeWord 0x8FF7 = .ok (.op8XY7 15 15) ∧ (Instr.op8XY7 0 0).row.accepts 0x8FF7 = true ∧
    (Instr.op8XY7 15 15).row.accepts 0x8FF7 = true := by decide
theorem witness_FieldsAreTheirBits_each_format :
    decodeWord 0xBFFF = .ok (.opBNNN 0xFFF) ∧ decodeWord 0xCFFF = .ok (.opCXKK 15 0xFF) ∧ decodeWord 0x9FF0 = .ok (.op9XY0 15 15) ∧
    decodeWord 0xDFFF = .ok (.opDXYN 15 15 15) ∧ decodeWord 0xFF07 = .ok (.opFX07 15) := by decide
theorem witness_EncodeOfDecodeIsTheWord : decodeWord 0xFFFF = .error (.unknown 0xFFFF) ∧ decodeWord 0xFF65 = .ok (.opFX65 15) := by decide
theorem witness_UnknownEncodingsAreTheListedWords_0_5 :
    decodeWord 0x00E1 = .error (.unknown 0x00E1) ∧ decodeWord 0x0FFF = .error (.unknown 0x0FFF) ∧
    decodeWord 0x5001 = .error (.unknown 0x5001) ∧ decodeWord 0x5FF0 = .ok (.op5XY0 15 15) := by decide
theorem witness_UnknownEncodingsAreTheListedWords_8_9 :
    decodeWord 0x8008 = .error (.unknown 0x8008) ∧ decodeWord 0x8FFF = .error (.unknown 0x8FFF) ∧
    decodeWord 0x9001 = .error (.unknown 0x9001) ∧ decodeWord 0x9FF0 = .ok (.op9XY0 15 15) := by decide
theorem witness_UnknownEncodingsAreTheListedWords_E_F :
    decodeWord 0xE09D = .error (.unknown 0xE09D) ∧ decodeWord 0xEFA1 = .ok (.opEXA1 15) ∧
    decodeWord 0xF006 = .error (.unknown 0xF006) ∧ decodeWord 0xFF66 = .error (.unknown 0xFF66) := by decide
theorem witness_FetchIsBigEndian : (atTheEnd 0x602A).pc.toNat ≤ 4094 ∧ (atTheEnd 0x602A).fetchWord = 0x602A := by decide
theorem witness_MemoryReadsTheLastWrite : (79 : Nat) ≠ 80 ∧ (0 : Nat) ≠ 4095 := by decide
theorem witness_CanonicalMemoriesWithEqualBytesAreEqual_data :
    Memory.write (Memory.write [] 0xFFF 1) 0 2 = Memory.write (Memory.write [] 0 2) 0xFFF 1 := by decide
theorem witness_CanonicalMemoriesWithEqualBytesAreEqual :
    Memory.wf (Memory.write (Memory.write [] 0xFFF 1) 0 2) = true ∧ Memory.wf (Memory.write (Memory.write [] 0 2) 0xFFF 1) = true ∧
    ∀ a, Memory.read (Memory.write (Memory.write [] 0xFFF 1) 0 2) a = Memory.read (Memory.write (Memory.write [] 0 2) 0xFFF 1) a :=
  ⟨by decide, by decide, fun a => by rw [witness_CanonicalMemoriesWithEqualBytesAreEqual_data]⟩
theorem witness_StoredBytesAreFetchedNext :
    (1 ≤ (1 : RegIdx).val ∧ ({ State.reset with i := 0xFFE } : State).i.toNat + (1 : RegIdx).val ≤ 4095) ∧
    (1 ≤ (15 : RegIdx).val ∧ ({ State.reset with i := 0xFF0 } : State).i.toNat + (15 : RegIdx).val ≤ 4095) := by decide
theorem witness_StepRunsTheDecodedInstruction :
    let s := atTheEnd 0x6F2A
    s.Running ∧ s.pc.toNat ≤ 0xFFE ∧ decode [s.mem.read s.pc.toNat, s.mem.read (s.pc.toNat + 1)] = .ok (.op6XKK 15 0x2A, []) ∧
      ∃ u, exec (.op6XKK 15 0x2A) s.sampleKeys = .next u ∧ u.fault.isSome = false :=
  ⟨by decide, by decide, by decide, _, rfl, by decide⟩
theorem witness_StepRunsTheDecodedInstruction_fault :
    let s := atTheEnd 0x00EE
    s.Running ∧ s.pc.toNat ≤ 0xFFE ∧ decode [s.mem.read s.pc.toNat, s.mem.read (s.pc.toNat + 1)] = .ok (.op00EE, []) ∧
      ∃ u, exec .op00EE s.sampleKeys = .next u ∧ u.fault.isSome = true :=
  ⟨by decide, by decide, by decide, _, rfl, by decide⟩
theorem witness_UnknownEncodingOnlyNotifiesAndAdvances :
    let s := atTheEnd 0x0000
    s.Running ∧ s.pc.toNat ≤ 0xFFE ∧ decodeWord s.fetchWord = .error (.unknown 0x0000) := by decide
theorem witness_FetchOutOfRangeFaults :
    ({ State.reset with pc := 0xFFF } : State).Running ∧ 0xFFE < ({ State.reset with pc := 0xFFF } : State).pc.toNat := by decide
theorem witness_FetchOutOfRangeFaults_top :
    ({ State.reset with pc := 0xFFFF } : State).Running ∧ 0xFFE < ({ State.reset with pc := 0xFFFF } : State).pc.toNat := by decide
theorem witness_FaultedTickIsTheIdentity : faulted.fault = some ⟨.stackUnderflow, 0x200, some 0x00EE, none⟩ := by decide
theorem witness_WaitingTickResolvesOnAKeyDown_no_key :
    (waitingWith 0).fault = none ∧ (waitingWith 0).waiting = true ∧ ∀ j : RegIdx, (waitingWith 0).sampleKeys.key[j] = false := by
  decide
theorem witness_WaitingTickResolvesOnAKeyDown_a_key :
    (waitingWith 0x8000).fault = none ∧ (waitingWith 0x8000).waiting = true ∧
      ∃ j : RegIdx, (waitingWith 0x8000).sampleKeys.key[j] = true :=
  ⟨by decide, by decide, 15, by decide⟩
theorem witness_WaitingTickWritesTheLeastKey_last :
    (waitingWith 0x8000).sampleKeys.key[(15 : RegIdx)] = true ∧
      ∀ k, k < (15 : RegIdx) → (waitingWith 0x8000).sampleKeys.key[k] = false := by decide
theorem witness_WaitingTickWritesTheLeastKey :
    (waitingWith 0xFFFF).fault = none ∧ (waitingWith 0xFFFF).waiting = true ∧
      (waitingWith 0xFFFF).sampleKeys.key[(0 : RegIdx)] = true ∧
      ∀ k, k < (0 : RegIdx) → (waitingWith 0xFFFF).sampleKeys.key[k] = false := by decide
theorem witness_CountdownFollowsTheInstruction :
    let s := { atTheEnd 0xF015 with st := 1 }
    s.Running ∧ s.pc.toNat ≤ 0xFFE ∧ decodeWord s.fetchWord = .ok (.opFX15 0) ∧
      ∃ u, exec (.opFX15 0) s.sampleKeys = .next u ∧ u.fault = none ∧ u.dt = 0 ∧ u.st = 1 :=
  ⟨by decide, by decide, by decide, _, rfl, by decide, by decide, by decide⟩
theorem witness_CountdownFollowsTheInstruction_each_timer_move :
    ((atTheEnd 0xFF07).Running ∧ (atTheEnd 0xFF07).pc.toNat ≤ 0xFFE ∧ decodeWord (atTheEnd 0xFF07).fetchWord = .ok (.opFX07 15)) ∧
    ((atTheEnd 0xFF15).Running ∧ (atTheEnd 0xFF15).pc.toNat ≤ 0xFFE ∧ decodeWord (atTheEnd 0xFF15).fetchWord = .ok (.opFX15 15)) ∧
    (atTheEnd 0xF018).Running ∧ (atTheEnd 0xF018).pc.toNat ≤ 0xFFE ∧ decodeWord (atTheEnd 0xF018).fetchWord = .ok (.opFX18 0) := by
  decide
theorem witness_FaultLatchIsNeverClearedOrOverwritten :
    faulted.fault = some ⟨.stackUnderflow, 0x200, some 0x00EE, none⟩ ∧ Sys2Proof.core.run 2 faulted = .next faulted :=
  ⟨by decide, rfl⟩
theorem witness_SafeRunsNeverFaultOnTheWay : ∃ t, SafeRun (1 + 1) (at200 0x6A2F) t := ⟨_, rfl, by decide⟩
theorem witness_FaultingTickChangesOnlyTheLatch :
    ∃ t, (at200 0x00EE).fault = none ∧ step (at200 0x00EE) = .next t ∧
      t.fault = some ⟨.stackUnderflow, 0x200, some 0x00EE, none⟩ :=
  ⟨_, by decide, rfl, by decide⟩
theorem witness_FaultingTickChangesOnlyTheLatch_fetch :
    ∃ t, ({ State.reset with pc := 0xFFF } : State).fault = none ∧ step { State.reset with pc := 0xFFF } = .next t ∧
      t.fault = some ⟨.fetchOutOfRange, 0xFFF, none, none⟩ :=
  ⟨_, by decide, rfl, by decide⟩
theorem witness_RunningTickFaultsExactlyAsListed_each_cause :
    (∀ s ∈ [at200 0x6A2F, at200 0x0000, { State.reset with pc := 0xFFF }, at200 0x00EE, { at200 0x2200 with sp := 16 },
        { at200 0xD00F with i := 0xFF2 }, { at200 0xF033 with i := 0xFFE }, { at200 0xFF55 with i := 0xFF1 },
        { at200 0xF065 with i := 0x1000 }, withRegs (at200 0xE09E) [(0, 16)], withRegs (at200 0xE0A1) [(0, 255)]], s.Running) ∧
    [at200 0x6A2F, at200 0x0000, { State.reset with pc := 0xFFF }, at200 0x00EE, { at200 0x2200 with sp := 16 },
        { at200 0xD00F with i := 0xFF2 }, { at200 0xF033 with i := 0xFFE }, { at200 0xFF55 with i := 0xFF1 },
        { at200 0xF065 with i := 0x1000 }, withRegs (at200 0xE09E) [(0, 16)], withRegs (at200 0xE0A1) [(0, 255)]].map tickFaultOf =
      [none, none, some .fetchOutOfRange, some .stackUnderflow, some .stackOverflow, some .memOutOfRange, some .memOutOfRange,
        some .memOutOfRange, some .memOutOfRange, some .keyOutOfRange, some .keyOutOfRange] := by decide
theorem witness_StackFaultsAreTaken :
    State.reset.fault = none ∧ State.reset.sp.val = 0 ∧
    ({ State.reset with sp := 16 } : State).fault = none ∧ ({ State.reset with sp := 16 } : State).sp.val = 16 := by decide
theorem witness_MemoryFaultsAreTakenWhole :
    let s : State := { State.reset with i := 0xFFF }
    let s' : State := { State.reset with i := 0xFFE }
    let s'' : State := { State.reset with i := 0x1000 }
    s.fault = none ∧ s'.fault = none ∧ s''.fault = none ∧
    (0 < (2 : Nibble).toNat ∧ 4095 < s.i.toNat + (2 : Nibble).toNat - 1) ∧ 4095 < s'.i.toNat + 2 ∧
    4095 < s.i.toNat + (1 : RegIdx).val ∧ 4095 < s''.i.toNat + (0 : RegIdx).val := by decide
theorem witness_ResetMemoryHoldsFontAndProgram_each_clause :
    (0 < 4096 ∧ 79 < 80) ∧ ¬80 < 80 ∧ (0x200 ≤ 0x200 ∧ 0x200 - 0x200 < min [(1 : Byte)].length 3584) ∧
    ¬(0x201 - 0x200 < min [(1 : Byte)].length 3584) ∧ 4095 < 4096 := by decide
theorem witness_EveryStepKeepsTheInvariant :
    ∃ s t : State, s.Inv ∧ step s = .next t ∧ s.pc.toNat = 0x10FE ∧ s.sp.val = 16 :=
  ⟨{ State.reset with pc := 0x10FE, sp := 16, stack := Vector.replicate 16 0xFFE }, _,
    ⟨by decide, by decide, by decide, by decide⟩, rfl, by decide, by decide⟩
theorem witness_CallPushesItsOwnAddress_and_ReturnUndoesTheCall :
    State.reset.sp.val < 16 ∧ ({ State.reset with sp := 15 } : State).sp.val < 16 := by decide
theorem witness_ReturnGoesPastTheCall :
    ({ State.reset with sp := 1 } : State).sp.val = (0 : Fin 16).val + 1 ∧
    ({ State.reset with sp := 16 } : State).sp.val = (15 : Fin 16).val + 1 := by decide
theorem witness_KeySkipsTestTheLatch :
    (State.reset.reg 2).toNat = (0 : RegIdx).val ∧ ((withRegs State.reset [(2, 15)]).reg 2).toNat = (15 : RegIdx).val := by decide
theorem witness_KeyFaultsAreTaken :
    ∀ b ∈ [16, 255], (withRegs State.reset [(2, b)]).fault = none ∧ 15 < ((withRegs State.reset [(2, b)]).reg 2).toNat := by decide
/-- The clauses of the ALU, load and timer statements: X is not 15, another register. -/
theorem witness_VxClauses : (14 : RegIdx) ≠ 15 ∧ (0 : RegIdx) ≠ 15 ∧ (1 : RegIdx) ≠ 0 := by decide
theorem witness_RandomByteIsMaskedAndUsedOnce :
    ({ State.reset with rndInputs := [0xB7] } : State).rndInputs = 0xB7 :: [] ∧ State.reset.rndInputs = [] ∧
    (0x0F : Byte).getLsbD 4 = false ∧ (0x00 : Byte).getLsbD 0 = false := by decide
theorem witness_BcdStoresThreeDigits :
    ({ State.reset with i := 0xFFD } : State).i.toNat + 2 ≤ 4095 ∧ (0 < 0xFFD ∨ 0xFFD + 2 < 0) := by decide
theorem witness_StoreRegistersStoresTheBlock_and_LoadRegistersLoadsTheBlock :
    (({ State.reset with i := 0xFFF } : State).i.toNat + (0 : RegIdx).val ≤ 4095 ∧ (0 : RegIdx) ≤ 0 ∧ (0 : RegIdx) < 1) ∧
    (({ State.reset with i := 0xFF0 } : State).i.toNat + (15 : RegIdx).val ≤ 4095 ∧ (15 : RegIdx) ≤ 15) := by decide
theorem witness_DrawIsTheOrderFreeXor_range :
    (0 : Nibble).toNat = 0 ∧ (({ State.reset with i := 0xFF1 } : State).i.toNat + (15 : Nibble).toNat - 1 ≤ 4095) := by decide
theorem witness_DrawIsTheOrderFreeXor_no_collision :
    ∀ r c : Nat, r < 1 → c < 8 → (State.reset.mem.read (0x300 + r)).getLsbD (7 - c) = false := by
  intro r c hr hc
  obtain rfl : r = 0 := by omega
  have h : ∀ c < 8, (State.reset.mem.read (0x300 + 0)).getLsbD (7 - c) = false := by decide
  exact h c hc
theorem witness_DrawIsTheOrderFreeXor_collision :
    let s : State := { State.reset with i := 0x300, mem := Memory.write [] 0x300 0x80, disp := State.reset.disp.setPixel 0 0 true }
    s.i.toNat + (1 : Nibble).toNat - 1 ≤ 4095 ∧
    ∃ r c, r < (1 : Nibble).toNat ∧ c < 8 ∧ (s.mem.read (s.i.toNat + r)).getLsbD (7 - c) = true ∧
      s.disp.pixel (wrapRow ((s.reg 1).toNat + r)) (wrapCol ((s.reg 0).toNat + c)) = true :=
  ⟨by decide, 0, 0, by decide⟩
theorem witness_DrawIsTheOrderFreeXor_pixel_outside :
    ∀ r c : Nat, r < 1 → c < 8 → ¬(wrapRow (0 + r) = 1 ∧ wrapCol (0 + c) = 0) := by
  intro r c hr _ h
  obtain rfl : r = 0 := by omega
  exact absurd h.1 (by decide)
theorem witness_DrawingTwiceRestoresTheDisplay :
    let s : State := { State.reset with i := 0xFFF, mem := Memory.write [] 0xFFF 0x01 }
    ((14 : RegIdx) ≠ 15 ∧ (0 : RegIdx) ≠ 15) ∧ s.i.toNat + (1 : Nibble).toNat - 1 ≤ 4095 ∧ s.disp = Display.clear ∧
    ∃ r c, r < (1 : Nibble).toNat ∧ c < 8 ∧ (s.mem.read (s.i.toNat + r)).getLsbD (7 - c) = true :=
  ⟨by decide, by decide, by decide, 0, 7, by decide⟩
theorem witness_DrawingTwiceRestoresTheDisplay_no_bit :
    let s : State := { State.reset with i := 0xFFF }
    ((0 : RegIdx) ≠ 15 ∧ (1 : RegIdx) ≠ 15) ∧ s.i.toNat + (1 : Nibble).toNat - 1 ≤ 4095 ∧ s.disp = Display.clear ∧
    ∀ r c, r < (1 : Nibble).toNat → c < 8 → (s.mem.read (s.i.toNat + r)).getLsbD (7 - c) = false := by
  refine ⟨by decide, by decide, by decide, fun r c hr hc => ?_⟩
  obtain rfl : r = 0 := Nat.lt_one_iff.mp hr
  have h : ∀ c < 8, (State.reset.mem.read (0xFFF + 0)).getLsbD (7 - c) = false := by decide
  exact h c hc
theorem witness_KeyWaitIsEntered : State.reset.fault = none := by decide
theorem witness_OnlyTheNamedInstructionsWriteEachState :
    ∃ t, exec (.op8XY4 15 0) State.reset = .next t ∧ Instr.op8XY4 15 0 ≠ .op00E0 ∧ Instr.op8XY4 15 0 ≠ .op00EE :=
  ⟨_, rfl, by decide, by decide⟩
theorem witness_OnlySevenInstructionsWriteAFlag :
    (∃ t, faultOf (.op8XY4 15 0) State.reset = none ∧ exec (.op8XY4 15 0) State.reset = .next t) ∧
    (∃ t, faultOf (.opFX65 14) State.reset = none ∧ exec (.opFX65 14) State.reset = .next t ∧ (14 : RegIdx) ≠ 15) ∧
    ∃ t, faultOf (.opFX55 15) State.reset = none ∧ exec (.opFX55 15) State.reset = .next t :=
  ⟨⟨_, by decide, rfl⟩, ⟨_, by decide, rfl, by decide⟩, ⟨_, by decide, rfl⟩⟩
theorem witness_PcAdvancesByTwoOrSkips :
    (∃ t, faultOf (.opFX0A 0) State.reset = none ∧ exec (.opFX0A 0) State.reset = .next t ∧ pcEffect (.opFX0A 0) = .advances) ∧
    ∃ t, faultOf (.opEX9E 0) State.reset = none ∧ exec (.opEX9E 0) State.reset = .next t ∧ pcEffect (.opEX9E 0) = .skips :=
  ⟨⟨_, by decide, rfl, by decide⟩, ⟨_, by decide, rfl, by decide⟩⟩
theorem witness_KeysMatterOnlyToTheKeySkips :
    ∃ t, exec (.opFX0A 3) State.reset = .next t ∧ (∀ x, Instr.opFX0A 3 ≠ .opEX9E x) ∧ ∀ x, Instr.opFX0A 3 ≠ .opEXA1 x :=
  ⟨_, rfl, by decide, by decide⟩
theorem witness_SoundTimerIsUnobservable : ∃ t, step { at200 0xF018 with st := 0xFF } = .next t := ⟨_, rfl⟩

end Sys2Proof.Tests
end

/-! PROOFS. The statements about memory (20_memory): the fetched word (R44) and the memory after reset (R42). -/

namespace Sys2Proof.Machine

/-- The default font ends at address 79. -/
theorem Memory.unlisted_of_ge {a : Nat} (h : 80 ≤ a) : Memory.unlisted a = 0 :=
  List.getD_eq_default fontDefault 0 h

/-- The memory after a reset is two block writes: where the program's block does not reach, the font's block shows. -/
theorem State.read_mem_resetWith (program : List Byte) (font : Vector Byte 80) (a : Nat) :
    (State.resetWith program font).mem.read a =
      if 0x200 ≤ a ∧ a < 0x200 + min 3584 program.length then (program.take 3584).getD (a - 0x200) 0
      else if a < 80 then font.toList.getD a 0
      else 0 := by
  have hmem : (State.resetWith program font).mem =
      (Memory.writeBytes [] 0 font.toList).writeBytes 0x200 (program.take 3584) := rfl
  rw [hmem, Memory.read_writeBytes, Memory.read_writeBytes, List.length_take, Vector.length_toList]
  by_cases hfont : a < 80
  · simp [hfont]
  · simp [hfont, Memory.unlisted_of_ge (Nat.le_of_not_lt hfont)]

/-- Settles O26: an address below 80 is below the program's block; from 80 on only the program's block writes. -/
theorem resetMemoryHoldsFontAndProgram : Obligations.ResetMemoryHoldsFontAndProgram := by
  intro program font a _
  rw [State.read_mem_resetWith]
  by_cases hfont : a < 80
  · rw [if_neg (by omega), if_pos hfont, dif_pos hfont]
    simp [List.getD_eq_getElem?_getD, hfont]
  rw [dif_neg hfont, if_neg hfont]
  by_cases hprog : 0x200 ≤ a ∧ a - 0x200 < min program.length 3584
  · have hk : a - 0x200 < 3584 := by omega
    rw [if_pos (by omega), if_pos hprog]
    simp [List.getD_eq_getElem?_getD, hk]
  · rw [if_neg (by omega), if_neg hprog]

/-- Settles O7: the first byte of a word is its high byte. -/
theorem fetchIsBigEndian : Obligations.FetchIsBigEndian :=
  fun _ _ => toNat_wordOfBytes _ _

end Sys2Proof.Machine

/-! PROOFS. The statements about the encoding (30_encoding): the decoder and the encoder are inverses; from that, the fields of a
word (R61) and the rows of the table (R64). -/

namespace Sys2Proof

/-! ### A word from the digits its pattern fixes -/

theorem wordAddr_of_fieldsOf {op : Word} {t : Nibble} (ht : (fieldsOf op).t = t) : wordAddr t (fieldsOf op).nnn = op := by
  rw [← ht, wordAddr_fieldsOf]

theorem wordXKK_of_fieldsOf {op : Word} {t : Nibble} {kk : Byte} (ht : (fieldsOf op).t = t) (hkk : (fieldsOf op).kk = kk) :
    wordXKK t (fieldsOf op).x kk = op := by
  rw [← ht, ← hkk, wordXKK_fieldsOf]

theorem wordXYN_of_fieldsOf {op : Word} {t n : Nibble} (ht : (fieldsOf op).t = t) (hn : (fieldsOf op).n = n) :
    wordXYN t (fieldsOf op).x (fieldsOf op).y n = op := by
  rw [← ht, ← hn, wordXYN_fieldsOf]

/-! ### The instruction decoded from a word encodes to that word -/

theorem encodeWord_of_decode0 {op : Word} {i : Instr} (h : decode0 op = .ok i) : encodeWord i = op := by
  unfold decode0 at h
  split_ifs at h <;> cases h
  all_goals exact Eq.symm ‹_›

theorem eq_of_decodeXY0 {op : Word} {i j : Instr} {n : Nibble} (h : decodeXY0 j op n = .ok i) : j = i ∧ n = 0x0#4 := by
  unfold decodeXY0 at h
  split_ifs at h with hn
  cases h
  exact ⟨rfl, hn⟩

theorem encodeWord_of_decode8 {op : Word} {i : Instr} (ht : (fieldsOf op).t = 0x8#4)
    (h : decode8 op (fieldsOf op) = .ok i) : encodeWord i = op := by
  unfold decode8 at h
  split at h <;> cases h
  all_goals exact wordXYN_of_fieldsOf ht (BitVec.eq_of_toNat_eq ‹_›)

theorem encodeWord_of_decodeE {op : Word} {i : Instr} (ht : (fieldsOf op).t = 0xE#4)
    (h : decodeE op (fieldsOf op) = .ok i) : encodeWord i = op := by
  unfold decodeE at h
  split_ifs at h <;> cases h
  all_goals exact wordXKK_of_fieldsOf ht ‹_›

theorem encodeWord_of_decodeF {op : Word} {i : Instr} (ht : (fieldsOf op).t = 0xF#4)
    (h : decodeF op (fieldsOf op) = .ok i) : encodeWord i = op := by
  unfold decodeF at h
  split_ifs at h <;> cases h
  all_goals exact wordXKK_of_fieldsOf ht ‹_›

theorem encodeWord_of_decodeWord {op : Word} {i : Instr} (h : decodeWord op = .ok i) : encodeWord i = op := by
  simp only [decodeWord] at h
  split at h
  case h_1 => exact encodeWord_of_decode0 h
  case h_2 | h_3 | h_11 | h_12 => cases h; exact wordAddr_of_fieldsOf (BitVec.eq_of_toNat_eq ‹_›)
  case h_4 | h_5 | h_7 | h_8 | h_13 => cases h; exact wordXKK_of_fieldsOf (BitVec.eq_of_toNat_eq ‹_›) rfl
  case h_6 | h_10 =>
    obtain ⟨rfl, hn⟩ := eq_of_decodeXY0 h
    exact wordXYN_of_fieldsOf (BitVec.eq_of_toNat_eq ‹_›) hn
  case h_9 => exact encodeWord_of_decode8 (BitVec.eq_of_toNat_eq ‹_›) h
  case h_14 => cases h; exact wordXYN_of_fieldsOf (BitVec.eq_of_toNat_eq ‹_›) rfl
  case h_15 => exact encodeWord_of_decodeE (BitVec.eq_of_toNat_eq ‹_›) h
  case h_16 => exact encodeWord_of_decodeF (BitVec.eq_of_toNat_eq ‹_›) h
  case h_17 => cases h

/-! ### The operands of a decoded instruction, by the format of its word -/

theorem operand_of_decodeWord_wordAddr {op : Word} {i : Instr} {t : Nibble} {nnn : Addr12} (h : decodeWord op = .ok i)
    (hi : encodeWord i = wordAddr t nnn) : nnn = (fieldsOf op).nnn := by
  rw [← encodeWord_of_decodeWord h, hi]
  exact (fieldsOf_wordAddr t nnn).2.symm

theorem operands_of_decodeWord_wordXKK {op : Word} {i : Instr} {t : Nibble} {x : RegIdx} {kk : Byte} (h : decodeWord op = .ok i)
    (hi : encodeWord i = wordXKK t x kk) : x = (fieldsOf op).x ∧ kk = (fieldsOf op).kk := by
  obtain ⟨-, hx, hkk⟩ := fieldsOf_wordXKK t x kk
  rw [← encodeWord_of_decodeWord h, hi]
  exact ⟨hx.symm, hkk.symm⟩

theorem operands_of_decodeWord_wordXYN {op : Word} {i : Instr} {t : Nibble} {x y : RegIdx} {n : Nibble} (h : decodeWord op = .ok i)
    (hi : encodeWord i = wordXYN t x y n) : x = (fieldsOf op).x ∧ y = (fieldsOf op).y ∧ n = (fieldsOf op).n := by
  obtain ⟨-, hx, hy, hn⟩ := fieldsOf_wordXYN t x y n
  rw [← encodeWord_of_decodeWord h, hi]
  exact ⟨hx.symm, hy.symm, hn.symm⟩

/-! ### The fields as numbers -/

theorem toNat_fieldsOf_t (op : Word) : (fieldsOf op).t.toNat = op.toNat / 4096 := by
  have := op.isLt
  simp only [fieldsOf, BitVec.extractLsb'_toNat, Nat.shiftRight_eq_div_pow]
  omega

theorem val_fieldsOf_x (op : Word) : (fieldsOf op).x.val = op.toNat / 256 % 16 := by
  simp [fieldsOf, Nat.shiftRight_eq_div_pow]

theorem val_fieldsOf_y (op : Word) : (fieldsOf op).y.val = op.toNat / 16 % 16 := by
  simp [fieldsOf, Nat.shiftRight_eq_div_pow]

theorem toNat_fieldsOf_n (op : Word) : (fieldsOf op).n.toNat = op.toNat % 16 := by
  simp [fieldsOf]

theorem toNat_fieldsOf_kk (op : Word) : (fieldsOf op).kk.toNat = op.toNat % 256 := by
  simp [fieldsOf]

theorem toNat_fieldsOf_nnn (op : Word) : (fieldsOf op).nnn.toNat = op.toNat % 4096 := by
  simp [fieldsOf]

/-- Where the two bytes of a word hold its fields (30_encoding R61, 20_memory R44). -/
theorem fieldsOf_wordOfBytes (hi lo : Byte) :
    (fieldsOf (wordOfBytes hi lo)).t.toNat = hi.toNat / 16 ∧ (fieldsOf (wordOfBytes hi lo)).x.val = hi.toNat % 16 ∧
    (fieldsOf (wordOfBytes hi lo)).y.val = lo.toNat / 16 ∧ (fieldsOf (wordOfBytes hi lo)).n.toNat = lo.toNat % 16 ∧
    (fieldsOf (wordOfBytes hi lo)).kk = lo := by
  have := lo.isLt
  rw [← BitVec.toNat_inj, toNat_fieldsOf_t, val_fieldsOf_x, val_fieldsOf_y, toNat_fieldsOf_n, toNat_fieldsOf_kk, toNat_wordOfBytes]
  omega

/-- Settles O2: the numbers of the fields by arithmetic, the operands because a decoded instruction encodes to its word, whose
fields are the operands it was built from. -/
theorem fieldsAreTheirBits : Obligations.FieldsAreTheirBits := by
  refine ⟨fieldsOf_wordOfBytes, fun op => ⟨?addr, ?xkk, ?xy, ?dxyn, ?x⟩, fun op => ?numbers⟩
  case addr =>
    intro form hform nnn h
    fin_cases hform <;> exact operand_of_decodeWord_wordAddr h rfl
  case xkk =>
    intro form hform x kk h
    fin_cases hform <;> exact operands_of_decodeWord_wordXKK h rfl
  case xy =>
    intro form hform x y h
    have hword : ∃ t n, encodeWord (form x y) = wordXYN t x y n := by fin_cases hform <;> exact ⟨_, _, rfl⟩
    obtain ⟨t, n, hi⟩ := hword
    obtain ⟨hx, hy, -⟩ := operands_of_decodeWord_wordXYN h hi
    exact ⟨hx, hy⟩
  case dxyn => exact fun x y n h => operands_of_decodeWord_wordXYN h rfl
  case x =>
    intro form hform x h
    fin_cases hform <;> exact (operands_of_decodeWord_wordXKK h rfl).1
  case numbers =>
    rw [toNat_fieldsOf_t, val_fieldsOf_x, val_fieldsOf_y, toNat_fieldsOf_n, toNat_fieldsOf_kk, toNat_fieldsOf_nnn]
    omega

/-! ### The rows of the table -/

/-- The statement of the family Encoding (30_encoding R60, R64), of every instruction, by the format of its word. -/
theorem Laws.encoding_statement (i : Instr) : Encoding.Statement i := by
  cases i with
  | op00E0 => exact Encoding.op00E0
  | op00EE => exact Encoding.op00EE
  | op1NNN nnn | op2NNN nnn | opANNN nnn | opBNNN nnn => exact Encoding.of_match (wordAddr_and_F000 _ nnn)
  | op3XKK x kk | op4XKK x kk | op6XKK x kk | op7XKK x kk | opCXKK x kk => exact Encoding.of_match (wordXKK_and_F000 _ x kk)
  | opDXYN x y n => exact Encoding.opDXYN x y n
  | op5XY0 x y | op8XY0 x y | op8XY1 x y | op8XY2 x y | op8XY3 x y | op8XY4 x y | op8XY5 x y | op8XY6 x y | op8XY7 x y
  | op8XYE x y | op9XY0 x y => exact Encoding.of_match (wordXYN_and_F00F _ x y _)
  | opEX9E x | opEXA1 x | opFX07 x | opFX0A x | opFX15 x | opFX18 x | opFX1E x | opFX29 x | opFX33 x | opFX55 x
  | opFX65 x => exact Encoding.of_match (wordXKK_and_F0FF _ x _)

theorem row_accepts_of_decodeWord {op : Word} {i : Instr} (h : decodeWord op = .ok i) : i.row.accepts op = true := by
  obtain ⟨-, -, hrow⟩ := Laws.encoding_statement i
  rwa [encodeWord_of_decodeWord h] at hrow

theorem Row.accepts_iff (r : Row) (op : Word) : r.accepts op = true ↔ op &&& r.mask = r.pattern := by
  simp [Row.accepts]

/-- A row that fixes the high digit accepts only words with the high digit of its pattern. -/
theorem fields_of_accepts_F000 {op p : Word} (h : Row.accepts ⟨0xF000#16, p⟩ op = true) : (fieldsOf op).t = (fieldsOf p).t := by
  have hp : wordAddr (fieldsOf op).t (fieldsOf op).nnn &&& 0xF000#16 = p := by
    rw [wordAddr_fieldsOf]; exact (Row.accepts_iff _ _).mp h
  rw [← hp, Laws.wordAddr_and_F000]
  exact (fieldsOf_wordAddr _ _).1.symm

/-- A row that fixes the high digit and the last one accepts only words with these digits of its pattern. -/
theorem fields_of_accepts_F00F {op p : Word} (h : Row.accepts ⟨0xF00F#16, p⟩ op = true) :
    (fieldsOf op).t = (fieldsOf p).t ∧ (fieldsOf op).n = (fieldsOf p).n := by
  have hp : wordXYN (fieldsOf op).t (fieldsOf op).x (fieldsOf op).y (fieldsOf op).n &&& 0xF00F#16 = p := by
    rw [wordXYN_fieldsOf]; exact (Row.accepts_iff _ _).mp h
  rw [← hp, Laws.wordXYN_and_F00F]
  obtain ⟨ht, -, -, hn⟩ := fieldsOf_wordXYN (fieldsOf op).t 0 0 (fieldsOf op).n
  exact ⟨ht.symm, hn.symm⟩

/-- A row that fixes the high digit and the low byte accepts only words with these of its pattern. -/
theorem fields_of_accepts_F0FF {op p : Word} (h : Row.accepts ⟨0xF0FF#16, p⟩ op = true) :
    (fieldsOf op).t = (fieldsOf p).t ∧ (fieldsOf op).kk = (fieldsOf p).kk := by
  have hp : wordXKK (fieldsOf op).t (fieldsOf op).x (fieldsOf op).kk &&& 0xF0FF#16 = p := by
    rw [wordXKK_fieldsOf]; exact (Row.accepts_iff _ _).mp h
  rw [← hp, Laws.wordXKK_and_F0FF]
  obtain ⟨ht, -, hkk⟩ := fieldsOf_wordXKK (fieldsOf op).t 0 (fieldsOf op).kk
  exact ⟨ht.symm, hkk.symm⟩

theorem eq_of_accepts_FFFF {op p : Word} (h : Row.accepts ⟨0xFFFF#16, p⟩ op = true) : op = p :=
  BitVec.and_allOnes.symm.trans ((Row.accepts_iff _ _).mp h)

/-- The digits that a row's mask selects decide every branch of the decoder on the way to an instruction of the row. -/
theorem decodeWord_of_row_accepts {op : Word} {i : Instr} (h : i.row.accepts op = true) :
    ∃ j, decodeWord op = .ok j ∧ j.row = i.row := by
  cases i with
  | op00E0 | op00EE =>
    cases eq_of_accepts_FFFF h
    exact ⟨_, rfl, rfl⟩
  | op1NNN _ | op2NNN _ | op3XKK _ _ | op4XKK _ _ | op6XKK _ _ | op7XKK _ _ | opANNN _ | opBNNN _ | opCXKK _ _ | opDXYN _ _ _ =>
    rw [decodeWord, fields_of_accepts_F000 h]
    exact ⟨_, rfl, rfl⟩
  | op5XY0 _ _ | op8XY0 _ _ | op8XY1 _ _ | op8XY2 _ _ | op8XY3 _ _ | op8XY4 _ _ | op8XY5 _ _ | op8XY6 _ _ | op8XY7 _ _
  | op8XYE _ _ | op9XY0 _ _ =>
    obtain ⟨ht, hn⟩ := fields_of_accepts_F00F h
    simp only [decodeWord, decode8, ht, hn]
    exact ⟨_, rfl, rfl⟩
  | opEX9E _ | opEXA1 _ | opFX07 _ | opFX0A _ | opFX15 _ | opFX18 _ | opFX1E _ | opFX29 _ | opFX33 _ | opFX55 _ | opFX65 _ =>
    obtain ⟨ht, hkk⟩ := fields_of_accepts_F0FF h
    simp only [decodeWord, decodeE, decodeF, ht, hkk]
    exact ⟨_, rfl, rfl⟩

/-- A word that two rows accept decodes to one instruction, which is of both. -/
theorem row_eq_of_accepts {op : Word} {i j : Instr} (hi : i.row.accepts op = true) (hj : j.row.accepts op = true) :
    i.row = j.row := by
  obtain ⟨k, hk, hki⟩ := decodeWord_of_row_accepts hi
  obtain ⟨l, hl, hlj⟩ := decodeWord_of_row_accepts hj
  cases hk.symm.trans hl
  exact hki.symm.trans hlj

/-- Settles O3: a decoded instruction's word is its encoding, which its row accepts; a row that accepts a word steers the decoder
to itself, so two rows that accept it are one. -/
theorem wordDecodesToARowExactlyWhenItMatches : Obligations.WordDecodesToARowExactlyWhenItMatches :=
  ⟨fun _ _ => row_accepts_of_decodeWord, fun _ _ => decodeWord_of_row_accepts, fun _ _ _ => row_eq_of_accepts⟩

end Sys2Proof

/-! PROOFS. The statements about the tick (40_tick): what the wait check makes of a waiting tick (R82). -/

namespace Sys2Proof.Machine

/-- A waiting tick is the wait check on the latches of this tick, and nothing else (40_tick R82). -/
theorem step_of_waiting {s : State} (hfault : s.fault = none) (hwait : s.waiting = true) :
    step s = .next s.sampleKeys.waitCheck := by
  simp [step, tick, tickBody, hfault, hwait]

/-- The register the wait check writes reads as the index of the key, which fits in a byte. -/
theorem State.toNat_reg_setReg_key (s : State) (x j : RegIdx) : ((s.setReg x (BitVec.ofNat 8 j.val)).reg x).toNat = j.val := by
  rw [State.reg_setReg, if_pos rfl, BitVec.toNat_ofNat]
  omega

/-- Settles O15: the tick is the wait check, which changes nothing without a key down and else writes the index of one. -/
theorem waitingTickResolvesOnAKeyDown : Obligations.WaitingTickResolvesOnAKeyDown := by
  intro s hfault hwait
  rw [step_of_waiting hfault hwait]
  refine ⟨fun hup => ?no_key, fun ⟨i, hi⟩ => ?a_key⟩
  case no_key => rw [State.waitCheck_of_none _ hup]
  case a_key =>
    obtain ⟨hup, -⟩ | ⟨j, hj, -, hcheck⟩ := s.sampleKeys.waitCheck_cases
    · exact absurd (hup i) (ne_false_of_eq_true hi)
    · refine ⟨j, _, hj, rfl, ?frame, ?written, fun k hk => ?others⟩ <;> rw [hcheck]
      case frame => rfl
      case written => exact s.sampleKeys.toNat_reg_setReg_key s.waitReg j
      case others => exact (State.reg_setReg _ _ _ _).trans (if_neg hk)

end Sys2Proof.Machine

/-! PROOFS. The statements about control transfer (41_flow): the jump (R101). -/

namespace Sys2Proof.Machine

/-- The jump's meaning: the one write of `pc` (41_flow R101). -/
theorem exec_op1NNN (nnn : Addr12) (s : State) : exec (.op1NNN nnn) s = .next (s.setPc (zextAddr nnn)) := rfl

/-- Settles O30: the word is the digit 1 before the address, and the one write is of the zero-extended address to `pc`. -/
theorem jumpSetsPc : Obligations.JumpSetsPc := fun s nnn =>
  ⟨toNat_wordAddr 0x1#4 nnn, s.setPc (zextAddr nnn), exec_op1NNN nnn s, rfl, toNat_zextAddr nnn⟩

end Sys2Proof.Machine

/-! PROOFS. The statements about the skips (42_skip): the four compare skips (R110 to R113). -/

namespace Sys2Proof

/-! ### The numbers of words, the operands times the weights of their digits -/

theorem toNat_wordXKK_weights (t : Nibble) (x : RegIdx) (kk : Byte) :
    (wordXKK t x kk).toNat = 4096 * t.toNat + 256 * x.val + kk.toNat := by
  rw [toNat_wordXKK, Nat.mul_comm t.toNat, Nat.mul_comm x.val]

theorem toNat_wordXYN_weights (t : Nibble) (x y : RegIdx) (n : Nibble) :
    (wordXYN t x y n).toNat = 4096 * t.toNat + 256 * x.val + 16 * y.val + n.toNat := by
  rw [toNat_wordXYN, Nat.mul_comm t.toNat, Nat.mul_comm x.val, Nat.mul_comm y.val]

namespace Machine

section
variable (s : State) (x y : RegIdx) (kk : Byte)

/-! ### The meanings of the compare skips (42_skip R110 to R113) -/

theorem exec_op3XKK : exec (.op3XKK x kk) s = .next (s.skipIf (s.reg x == kk)) := rfl
theorem exec_op4XKK : exec (.op4XKK x kk) s = .next (s.skipIf (s.reg x != kk)) := rfl
theorem exec_op5XY0 : exec (.op5XY0 x y) s = .next (s.skipIf (s.reg x == s.reg y)) := rfl
theorem exec_op9XY0 : exec (.op9XY0 x y) s = .next (s.skipIf (s.reg x != s.reg y)) := rfl

/-! ### A skip on the comparison of two bytes: bytes are equal exactly when their numbers are -/

theorem State.skipIf_beq (a b : Byte) :
    s.skipIf (a == b) = { s with pc := if a.toNat = b.toNat then s.pc + 4 else s.pc + 2 } := by
  simp only [State.skipIf, beq_iff_eq, BitVec.toNat_inj]

theorem State.skipIf_bne (a b : Byte) :
    s.skipIf (a != b) = { s with pc := if a.toNat ≠ b.toNat then s.pc + 4 else s.pc + 2 } := by
  simp only [State.skipIf, bne_iff_ne, ne_eq, BitVec.toNat_inj]

end

/-- Settles O35: each word is the number of its digits, and each meaning is the skip on its comparison of bytes, which is the
comparison of their numbers. -/
theorem compareSkips : Obligations.CompareSkips := by
  intro s x y kk
  refine ⟨?word3, ?word4, ?word5, ?word9, ?exec3, ?exec4, ?exec5, ?exec9⟩
  case word3 => exact toNat_wordXKK_weights 0x3#4 x kk
  case word4 => exact toNat_wordXKK_weights 0x4#4 x kk
  case word5 => exact toNat_wordXYN_weights 0x5#4 x y 0x0#4
  case word9 => exact toNat_wordXYN_weights 0x9#4 x y 0x0#4
  case exec3 => rw [exec_op3XKK, State.skipIf_beq]
  case exec4 => rw [exec_op4XKK, State.skipIf_bne]
  case exec5 => rw [exec_op5XY0, State.skipIf_beq]
  case exec9 => rw [exec_op9XY0, State.skipIf_bne]

end Machine

end Sys2Proof

/-! PROOFS. The statements about load and ALU (43_alu): the loads and the logic (R120, R122 to R125), the additions (R121, R126), the
subtractions (R127, R129) and the shifts (R128, R130). -/

namespace Sys2Proof.Machine

/-! ### The bytes of the ALU as numbers (43_alu R131) -/

theorem toNat_flagByte_carry8 (a b : Byte) : (flagByte (carry8 a b)).toNat = if a.toNat + b.toNat > 255 then 1 else 0 := by
  simp only [flagByte_toNat, carry8, decide_eq_true_eq]

theorem toNat_flagByte_noBorrow (a b : Byte) : (flagByte (noBorrow a b)).toNat = if a.toNat ≥ b.toNat then 1 else 0 := by
  simp only [flagByte_toNat, noBorrow, decide_eq_true_eq]

/-- A bit of a byte as a flag is that binary digit of its number. -/
theorem toNat_flagByte_getLsbD (b : Byte) (k : Nat) : (flagByte (b.getLsbD k)).toNat = b.toNat / 2 ^ k % 2 := by
  rw [flagByte_toNat, BitVec.getLsbD, Nat.testBit_eq_decide_div_mod_eq]
  rcases Nat.mod_two_eq_zero_or_one (b.toNat / 2 ^ k) with h | h <;> simp [h]

theorem toNat_flagByte_lowBit (b : Byte) : (flagByte (lowBit b)).toNat = b.toNat % 2 := by
  rw [lowBit, toNat_flagByte_getLsbD, Nat.pow_zero, Nat.div_one]

/-- The top digit of a byte is the quotient by its weight: no digit is above it. -/
theorem toNat_flagByte_highBit (b : Byte) : (flagByte (highBit b)).toNat = b.toNat / 128 := by
  have hdigit : (flagByte (highBit b)).toNat = b.toNat / 128 % 2 := toNat_flagByte_getLsbD b 7
  omega

/-- The difference of two bytes is the difference of their numbers, a negative one taken modulo 256. -/
theorem toNat_sub_emod (a b : Byte) : ((a - b).toNat : Int) = (a.toNat - b.toNat : Int) % 256 := by
  rw [BitVec.toNat_sub]
  omega

theorem toNat_ushiftRight_one (b : Byte) : (b >>> 1).toNat = b.toNat / 2 := by
  rw [BitVec.toNat_ushiftRight, Nat.shiftRight_eq_div_pow, Nat.pow_one]

theorem toNat_shiftLeft_one (b : Byte) : (b <<< 1).toNat = b.toNat * 2 % 256 := by
  rw [BitVec.toNat_shiftLeft, Nat.shiftLeft_eq, Nat.pow_one]

section
variable (s : State) (x y : RegIdx) (kk : Byte)

/-! ### The meanings of the loads and of the ALU (43_alu R120 to R130) -/

theorem exec_op6XKK : exec (.op6XKK x kk) s = .next (s.setReg x kk).advance := rfl
theorem exec_op7XKK : exec (.op7XKK x kk) s = .next (s.setReg x (s.reg x + kk)).advance := rfl
theorem exec_op8XY0 : exec (.op8XY0 x y) s = .next (s.setReg x (s.reg y)).advance := rfl
theorem exec_op8XY1 : exec (.op8XY1 x y) s = .next (s.setReg x (s.reg x ||| s.reg y)).advance := rfl
theorem exec_op8XY2 : exec (.op8XY2 x y) s = .next (s.setReg x (s.reg x &&& s.reg y)).advance := rfl
theorem exec_op8XY3 : exec (.op8XY3 x y) s = .next (s.setReg x (s.reg x ^^^ s.reg y)).advance := rfl
theorem exec_op8XY4 :
    exec (.op8XY4 x y) s = .next (s.setResultFlag x (s.reg x + s.reg y) (carry8 (s.reg x) (s.reg y))).advance := rfl
theorem exec_op8XY5 :
    exec (.op8XY5 x y) s = .next (s.setResultFlag x (s.reg x - s.reg y) (noBorrow (s.reg x) (s.reg y))).advance := rfl
theorem exec_op8XY6 : exec (.op8XY6 x y) s = .next (s.setResultFlag x (s.reg x >>> 1) (lowBit (s.reg x))).advance := rfl
theorem exec_op8XY7 :
    exec (.op8XY7 x y) s = .next (s.setResultFlag x (s.reg y - s.reg x) (noBorrow (s.reg y) (s.reg x))).advance := rfl
theorem exec_op8XYE : exec (.op8XYE x y) s = .next (s.setResultFlag x (s.reg x <<< 1) (highBit (s.reg x))).advance := rfl

end

section
variable {i : Instr} {s : State} {x : RegIdx} {b : Byte} {f : Bool}

/-! ### The two ways an ALU instruction writes registers -/

/-- An instruction that writes one register and advances: what it writes, and its frame. -/
theorem exec_spec_of_setReg (h : exec i s = .next (s.setReg x b).advance) :
    ∃ t, exec i s = .next t ∧ t = { s with v := t.v, pc := s.pc + 2 } ∧ t.reg x = b ∧ ∀ k, k ≠ x → t.reg k = s.reg k := by
  refine ⟨_, h, rfl, ?written, fun k hk => ?others⟩
  case written => exact (s.reg_setReg x x b).trans (if_pos rfl)
  case others => exact (s.reg_setReg x k b).trans (if_neg hk)

/-- An instruction that writes a result, then a flag, and advances: the result shows unless the flag takes its place, the flag
always, and its frame (10_state R12). -/
theorem exec_spec_of_setResultFlag (h : exec i s = .next (s.setResultFlag x b f).advance) :
    ∃ t, exec i s = .next t ∧ t = { s with v := t.v, pc := s.pc + 2 } ∧ (x ≠ 15 → t.reg x = b) ∧ t.reg 15 = flagByte f ∧
      ∀ k, k ≠ x → k ≠ 15 → t.reg k = s.reg k := by
  have hreg (k : RegIdx) : (s.setResultFlag x b f).advance.reg k = if k = 15 then flagByte f else if k = x then b else s.reg k :=
    s.reg_setResultFlag x k b f
  refine ⟨_, h, rfl, fun hx => ?result, ?flag, fun k hkx hk => ?others⟩
  case result => rw [hreg, if_neg hx, if_pos rfl]
  case flag => rw [hreg, if_pos rfl]
  case others => rw [hreg, if_neg hk, if_neg hkx]

end

/-- Settles O38: each of the five writes one register, the word of 6XKK is the number of its digits. -/
theorem loadsAndLogicWriteVxAlone : Obligations.LoadsAndLogicWriteVxAlone := by
  intro s x y kk
  refine ⟨toNat_wordXKK_weights 0x6#4 x kk, ?_⟩
  simp only [List.forall_mem_cons, List.not_mem_nil, false_implies, implies_true, and_true]
  exact ⟨exec_spec_of_setReg (exec_op6XKK s x kk), exec_spec_of_setReg (exec_op8XY0 s x y),
    exec_spec_of_setReg (exec_op8XY1 s x y), exec_spec_of_setReg (exec_op8XY2 s x y), exec_spec_of_setReg (exec_op8XY3 s x y)⟩

/-- Settles O39: the one register written takes the sum of two bytes, whose number is the sum modulo 256. -/
theorem addImmediateSetsNoFlag : Obligations.AddImmediateSetsNoFlag := by
  intro s x kk
  obtain ⟨t, hexec, hframe, hsum, hothers⟩ := exec_spec_of_setReg (exec_op7XKK s x kk)
  exact ⟨toNat_wordXKK_weights 0x7#4 x kk, t, hexec, hframe, hsum ▸ BitVec.toNat_add _ _, hothers⟩

/-- Settles O40: the result is the sum of two bytes, the flag its carry. -/
theorem addWithCarryFlag : Obligations.AddWithCarryFlag := by
  intro s x y
  obtain ⟨t, hexec, hframe, hsum, hflag, hothers⟩ := exec_spec_of_setResultFlag (exec_op8XY4 s x y)
  exact ⟨t, hexec, hframe, fun hx => hsum hx ▸ BitVec.toNat_add _ _, hflag ▸ toNat_flagByte_carry8 _ _, hothers⟩

/-- An instruction that writes the difference `a - b`, then its not-borrow flag: both as numbers (43_alu R127, R129). -/
theorem exec_spec_of_difference {i : Instr} {s : State} {x : RegIdx} {a b : Byte}
    (h : exec i s = .next (s.setResultFlag x (a - b) (noBorrow a b)).advance) :
    ∃ t, exec i s = .next t ∧ t = { s with v := t.v, pc := s.pc + 2 } ∧
      (x ≠ 15 → ((t.reg x).toNat : Int) = (a.toNat - b.toNat : Int) % 256) ∧
      (t.reg 15).toNat = (if a.toNat ≥ b.toNat then 1 else 0) ∧ ∀ k, k ≠ x → k ≠ 15 → t.reg k = s.reg k := by
  obtain ⟨t, hexec, hframe, hdiff, hflag, hothers⟩ := exec_spec_of_setResultFlag h
  exact ⟨t, hexec, hframe, fun hx => hdiff hx ▸ toNat_sub_emod a b, hflag ▸ toNat_flagByte_noBorrow a b, hothers⟩

/-- Settles O41: the two differ in which register is the minuend. -/
theorem subtractionsWithNotBorrowFlag : Obligations.SubtractionsWithNotBorrowFlag := fun s x y =>
  ⟨exec_spec_of_difference (exec_op8XY5 s x y), exec_spec_of_difference (exec_op8XY7 s x y)⟩

/-- Settles O42: a shift by one halves or doubles the number, and the bit shifted out is its lowest or its highest digit. -/
theorem shiftsByOneWithTheBitShiftedOut : Obligations.ShiftsByOneWithTheBitShiftedOut := by
  intro s x y
  constructor
  case left =>
    obtain ⟨t, hexec, hframe, hhalf, hflag, hothers⟩ := exec_spec_of_setResultFlag (exec_op8XY6 s x y)
    exact ⟨t, hexec, hframe, fun hx => hhalf hx ▸ toNat_ushiftRight_one _, hflag ▸ toNat_flagByte_lowBit _, hothers⟩
  case right =>
    obtain ⟨t, hexec, hframe, hdouble, hflag, hothers⟩ := exec_spec_of_setResultFlag (exec_op8XYE s x y)
    exact ⟨t, hexec, hframe, fun hx => hdouble hx ▸ toNat_shiftLeft_one _, hflag ▸ toNat_flagByte_highBit _, hothers⟩

end Sys2Proof.Machine

/-! PROOFS. The statements about the index register (44_index_memory): the load of the index (R140). -/

namespace Sys2Proof.Machine

/-- The meaning of ANNN: the one register written is the index (44_index_memory R140). -/
theorem exec_opANNN (nnn : Addr12) (s : State) : exec (.opANNN nnn) s = .next (s.setI (zextAddr nnn)).advance := rfl

/-- Settles O45: the word is the digit A before the address, and the index takes the zero-extended address before `pc` advances. -/
theorem loadIndexSetsI : Obligations.LoadIndexSetsI := by
  intro s nnn
  refine ⟨toNat_wordAddr 0xA#4 nnn, (s.setI (zextAddr nnn)).advance, exec_opANNN nnn s, ?frame, ?index⟩
  case frame => rfl
  case index => rw [State.advance_i, State.setI_i, toNat_zextAddr]

end Sys2Proof.Machine

/-! PROOFS. The statements about the display (45_display): the clear (R150), the draw of one sprite (R151, R153, R154) and the same
draw twice. -/

namespace Sys2Proof.Machine

/-- The meaning of 00E0: the display is the clear one (45_display R150). -/
theorem exec_op00E0 (s : State) : exec .op00E0 s = .next { s with disp := Display.clear }.advance := rfl

/-- Settles O51: the display written is the clear one, each of whose pixels is false. -/
theorem clearMakesEveryPixelFalse : Obligations.ClearMakesEveryPixelFalse :=
  ⟨rfl, fun s => ⟨_, exec_op00E0 s, rfl, Display.pixel_clear⟩⟩

theorem Memory.getD_readBytes (m : Memory) (a : Nat) {n k : Nat} (h : k < n) : (m.readBytes a n).getD k 0 = m.read (a + k) := by
  rw [List.getD_eq_getElem _ _ (by rwa [Memory.length_readBytes]), Memory.getElem_readBytes]

/-- A sprite has at most 15 rows, so no two of them fall on one row of the display. -/
theorem Memory.length_sprite_le (m : Memory) (a : Nat) (n : Nibble) : (m.readBytes a n.toNat).length ≤ 32 := by
  rw [Memory.length_readBytes]
  omega

/-- A flag that says whether `P` holds, as the byte written to VF. -/
theorem flagByte_of_iff {b : Bool} {P : Prop} (h : b = true ↔ P) : (P → flagByte b = 1) ∧ (¬P → flagByte b = 0) :=
  ⟨fun hP => congrArg flagByte (h.2 hP), fun hP => congrArg flagByte (Bool.eq_false_iff.2 fun hb => hP (h.1 hb))⟩

section
variable (s : State) (x y : RegIdx) (n : Nibble)

/-! ### What a sprite does to a pixel, and when it collides -/

/-- What DXYN in this state XORs onto a pixel: the sprite's bit there, and false outside the sprite (`pixel_drawSprite`). -/
def State.spriteMask (row : Fin 32) (col : Fin 64) : Bool :=
  let r := rowOffset (s.reg y).toNat row
  let c := colOffset (s.reg x).toNat col
  decide (r < n.toNat) && decide (c < 8) && spriteBit (s.mem.read (s.i.toNat + r)) c

/-- DXYN in this state has a collision: a bit of 1 of the sprite meets a true pixel (`hit_drawSprite`). -/
def State.Collides : Prop :=
  ∃ r c, r < n.toNat ∧ c < 8 ∧ (s.mem.read (s.i.toNat + r)).getLsbD (7 - c) = true ∧
    s.disp.pixel (wrapRow ((s.reg y).toNat + r)) (wrapCol ((s.reg x).toNat + c)) = true

theorem State.spriteMask_wrap {r c : Nat} (hr : r < n.toNat) (hc : c < 8) :
    s.spriteMask x y n (wrapRow ((s.reg y).toNat + r)) (wrapCol ((s.reg x).toNat + c)) =
      (s.mem.read (s.i.toNat + r)).getLsbD (7 - c) := by
  have hrow : rowOffset (s.reg y).toNat (wrapRow ((s.reg y).toNat + r)) = r := (wrapRow_eq_iff _ r _ (by omega)).1 rfl
  have hcol : colOffset (s.reg x).toNat (wrapCol ((s.reg x).toNat + c)) = c := (wrapCol_eq_iff _ c _ (by omega)).1 rfl
  simp [State.spriteMask, hrow, hcol, hr, hc, spriteBit]

/-- Outside the N by 8 pixels of the sprite the mask is false: the offsets of a pixel inside would name it. -/
theorem State.spriteMask_outside {row : Fin 32} {col : Fin 64}
    (hout : ∀ r c, r < n.toNat → c < 8 → ¬(wrapRow ((s.reg y).toNat + r) = row ∧ wrapCol ((s.reg x).toNat + c) = col)) :
    s.spriteMask x y n row col = false := by
  have hoffsets : ¬(rowOffset (s.reg y).toNat row < n.toNat ∧ colOffset (s.reg x).toNat col < 8) := fun ⟨hr, hc⟩ =>
    hout _ _ hr hc ⟨(wrapRow_eq_iff _ _ row (by omega)).2 rfl, (wrapCol_eq_iff _ _ col (by omega)).2 rfl⟩
  rw [State.spriteMask, ← Bool.decide_and, decide_eq_false hoffsets, Bool.false_and]

theorem pixel_drawSprite (row : Fin 32) (col : Fin 64) :
    (drawSprite s x y n).disp.pixel row col = (s.disp.pixel row col ^^ s.spriteMask x y n row col) := by
  rw [drawSprite, (Canvas.drawRows_spec _ _ _ _ (s.mem.length_sprite_le _ n)).1, Memory.length_readBytes, State.spriteMask]
  by_cases hr : rowOffset (s.reg y).toNat row < n.toNat
  · rw [Memory.getD_readBytes _ _ hr]
  · simp only [hr, decide_false, Bool.false_and]

theorem hit_drawSprite : (drawSprite s x y n).hit = true ↔ s.Collides x y n := by
  rw [drawSprite, (Canvas.drawRows_spec _ _ _ _ (s.mem.length_sprite_le _ n)).2, Memory.length_readBytes]
  simp only [Bool.false_eq_true, false_or]
  refine exists_congr fun r => exists_congr fun c => and_congr_right fun hr => ?_
  rw [Memory.getD_readBytes _ _ hr, spriteBit]

variable {s n}

/-- DXYN in range: the display drawn, the flag of the collision, and its frame (45_display R151, R153, R154). -/
theorem exec_spec_of_draw (h : n.toNat = 0 ∨ s.i.toNat + n.toNat - 1 ≤ 4095) :
    ∃ t, exec (.opDXYN x y n) s = .next t ∧ t = { s with v := t.v, disp := (drawSprite s x y n).disp, pc := s.pc + 2 } ∧
      (s.Collides x y n → t.reg 15 = 1) ∧ (¬s.Collides x y n → t.reg 15 = 0) ∧ ∀ k, k ≠ 15 → t.reg k = s.reg k := by
  have hexec : exec (.opDXYN x y n) s =
      .next ({ s with disp := (drawSprite s x y n).disp }.setFlag (drawSprite s x y n).hit).advance := by
    simp only [exec, execDXYN, outOfRange_of_le h]
  have hreg (k : RegIdx) : ({ s with disp := (drawSprite s x y n).disp }.setFlag (drawSprite s x y n).hit).advance.reg k =
      if k = 15 then flagByte (drawSprite s x y n).hit else s.reg k := State.reg_setFlag _ _ k
  obtain ⟨hset, hclear⟩ := flagByte_of_iff (hit_drawSprite s x y n)
  exact ⟨_, hexec, rfl, fun h => (hreg 15).trans (hset h), fun h => (hreg 15).trans (hclear h),
    fun k hk => (hreg k).trans (if_neg hk)⟩

end

/-- Settles O52: a pixel is XORed with the sprite's mask, which is the sprite bit inside and false outside. -/
theorem drawIsTheOrderFreeXor : Obligations.DrawIsTheOrderFreeXor := by
  intro s x y n hrange
  obtain ⟨t, hexec, hframe, hset, hclear, hothers⟩ := exec_spec_of_draw x y hrange
  have hdisp : t.disp = (drawSprite s x y n).disp := (congrArg State.disp hframe :)
  refine ⟨t, hexec, hdisp ▸ hframe, fun r c hr hc => ?inside, fun row col hout => ?outside, hset, fun hfree => hclear ?free,
    hothers⟩
  case inside => rw [hdisp, pixel_drawSprite, State.spriteMask_wrap s x y n hr hc]
  case outside => rw [hdisp, pixel_drawSprite, State.spriteMask_outside s x y n hout, Bool.xor_false]
  case free => exact fun ⟨r, c, hr, hc, hbit, hpixel⟩ => Bool.false_ne_true ((hfree r c hr hc hbit).symm.trans hpixel)

/-- Settles O53: the second draw has the mask of the first, and a pixel XORed twice with it is as before; from a clear display the
first draw leaves the mask itself, so the second collides wherever the sprite has a bit of 1. -/
theorem drawingTwiceRestoresTheDisplay : Obligations.DrawingTwiceRestoresTheDisplay := by
  intro s x y n hx hy hrange
  obtain ⟨t, hexec, hframe, -, -, hothers⟩ := exec_spec_of_draw x y hrange
  have hi : t.i = s.i := (congrArg State.i hframe :)
  have hmem : t.mem = s.mem := (congrArg State.mem hframe :)
  have hdisp : t.disp = (drawSprite s x y n).disp := (congrArg State.disp hframe :)
  obtain ⟨u, hexec', hframe', hset, hclear, -⟩ := exec_spec_of_draw (s := t) x y (hi ▸ hrange)
  have hdisp' : u.disp = (drawSprite t x y n).disp := (congrArg State.disp hframe' :)
  refine ⟨t, u, hexec, hexec', ?restored, fun hs => ?flag⟩
  case restored =>
    have hmask : t.spriteMask x y n = s.spriteMask x y n := by
      unfold State.spriteMask
      rw [hothers x hx, hothers y hy, hi, hmem]
    refine Display.ext_pixel fun row col => ?_
    rw [hdisp', pixel_drawSprite, hdisp, pixel_drawSprite, hmask, Bool.xor_assoc, Bool.xor_self, Bool.xor_false]
  case flag =>
    have hcollides : t.Collides x y n ↔
        ∃ r c, r < n.toNat ∧ c < 8 ∧ (s.mem.read (s.i.toNat + r)).getLsbD (7 - c) = true := by
      unfold State.Collides
      refine exists_congr fun r => exists_congr fun c => and_congr_right fun hr => and_congr_right fun hc => ?_
      rw [hothers x hx, hothers y hy, hi, hmem, hdisp, pixel_drawSprite, State.spriteMask_wrap s x y n hr hc, hs,
        Display.pixel_clear, Bool.false_xor, and_self]
    refine ⟨fun hbit => hset (hcollides.2 hbit), fun hnone => hclear (mt hcollides.1 ?_)⟩
    exact fun ⟨r, c, hr, hc, hbit⟩ => Bool.false_ne_true ((hnone r c hr hc).symm.trans hbit)

end Sys2Proof.Machine

/-! PROOFS. The statements about the timers (46_timer_key): the moves between a register and a timer (R160, R162, R163). -/

namespace Sys2Proof

/-- The number of a word whose high digit and low byte are fixed: that of its pattern, plus the register times its weight. -/
theorem toNat_wordXKK_pattern (t : Nibble) (x : RegIdx) (kk : Byte) :
    (wordXKK t x kk).toNat = (4096 * t.toNat + kk.toNat) + 256 * x.val := by
  rw [toNat_wordXKK_weights, Nat.add_right_comm]

namespace Machine

section
variable (x : RegIdx) (s : State)

/-! ### The meanings of the timer moves (46_timer_key R160, R162, R163) -/

theorem exec_opFX07 : exec (.opFX07 x) s = .next (s.setReg x s.dt).advance := rfl
theorem exec_opFX15 : exec (.opFX15 x) s = .next { s with dt := s.reg x }.advance := rfl
theorem exec_opFX18 : exec (.opFX18 x) s = .next { s with st := s.reg x }.advance := rfl

end

/-- Settles O54: each word is its pattern's number plus the register's digit; FX07 writes one register, and the other two one
timer, before `pc` advances. -/
theorem timerMoves : Obligations.TimerMoves := by
  intro s x
  refine ⟨?word07, ?word15, ?word18, ?exec07, ?exec15, ?exec18⟩
  case word07 => exact toNat_wordXKK_pattern 0xF#4 x 0x07#8
  case word15 => exact toNat_wordXKK_pattern 0xF#4 x 0x15#8
  case word18 => exact toNat_wordXKK_pattern 0xF#4 x 0x18#8
  case exec07 => exact exec_spec_of_setReg (exec_opFX07 x s)
  case exec15 => exact exec_opFX15 x s
  case exec18 => exact exec_opFX18 x s

end Machine

end Sys2Proof

/-! PROOFS. The statements about the encoding (30_encoding) as a whole: each instruction is read back from its bytes, each word has one
meaning, and the words that have none are those of section 3. -/

namespace Sys2Proof

/-- The digits that the encoder writes decide every branch of the decoder on the way back to the instruction. -/
theorem decodeWord_encodeWord (i : Instr) : decodeWord (encodeWord i) = .ok i := by
  cases i with
  | op00E0 | op00EE => rfl
  | op1NNN _ | op2NNN _ | opANNN _ | opBNNN _ => simp [encodeWord, decodeWord, fieldsOf_wordAddr]
  | op3XKK _ _ | op4XKK _ _ | op6XKK _ _ | op7XKK _ _ | opCXKK _ _ => simp [encodeWord, decodeWord, fieldsOf_wordXKK]
  | op5XY0 _ _ | op9XY0 _ _ => simp [encodeWord, decodeWord, decodeXY0, fieldsOf_wordXYN]
  | op8XY0 _ _ | op8XY1 _ _ | op8XY2 _ _ | op8XY3 _ _ | op8XY4 _ _ | op8XY5 _ _ | op8XY6 _ _ | op8XY7 _ _ | op8XYE _ _ =>
    simp [encodeWord, decodeWord, decode8, fieldsOf_wordXYN]
  | opDXYN _ _ _ => simp [encodeWord, decodeWord, fieldsOf_wordXYN]
  | opEX9E _ | opEXA1 _ => simp [encodeWord, decodeWord, decodeE, fieldsOf_wordXKK]
  | opFX07 _ | opFX0A _ | opFX15 _ | opFX18 _ | opFX1E _ | opFX29 _ | opFX33 _ | opFX55 _ | opFX65 _ =>
    simp [encodeWord, decodeWord, decodeF, fieldsOf_wordXKK]

/-- Settles O4: the two bytes of an instruction are those of its word, which decodes to it. -/
theorem decodeOfEncodeIsTheInstruction : Obligations.DecodeOfEncodeIsTheInstruction := by
  intro i rest
  rw [encode, List.cons_append, List.cons_append, List.nil_append, decode_two, wordOfBytes_hiByte_loByte, decodeWord_encodeWord]
  rfl

/-- Settles O5: every branch of the decoder keeps all the digits of its word. -/
theorem encodeOfDecodeIsTheWord : Obligations.EncodeOfDecodeIsTheWord :=
  fun _ _ => encodeWord_of_decodeWord

/-! ### The words a family rejects (30_encoding R67) -/

theorem decode0_eq_error_iff (op : Word) : decode0 op = .error (.unknown op) ↔ op ≠ 0x00E0 ∧ op ≠ 0x00EE := by
  unfold decode0
  split_ifs <;> simp_all

theorem decodeXY0_eq_error_iff (i : Instr) (op : Word) (n : Nibble) :
    decodeXY0 i op n = .error (.unknown op) ↔ n.toNat ≠ 0 := by
  unfold decodeXY0
  split_ifs <;> simp_all [← BitVec.toNat_inj]

theorem decode8_eq_error_iff (op : Word) (f : Fields) :
    decode8 op f = .error (.unknown op) ↔ f.n.toNat ∈ [0x8, 0x9, 0xA, 0xB, 0xC, 0xD, 0xF] := by
  have := f.n.isLt
  unfold decode8
  split <;> simp_all
  omega

theorem decodeE_eq_error_iff (op : Word) (f : Fields) :
    decodeE op f = .error (.unknown op) ↔ f.kk.toNat ∉ [0x9E, 0xA1] := by
  unfold decodeE
  split_ifs <;> simp_all [← BitVec.toNat_inj]

theorem decodeF_eq_error_iff (op : Word) (f : Fields) :
    decodeF op f = .error (.unknown op) ↔ f.kk.toNat ∉ [0x07, 0x0A, 0x15, 0x18, 0x1E, 0x29, 0x33, 0x55, 0x65] := by
  unfold decodeF
  split_ifs <;> simp_all [← BitVec.toNat_inj]

/-- Settles O6: the high digit leads to one family, and each family rejects the words of its own clause. -/
theorem unknownEncodingsAreTheListedWords : Obligations.UnknownEncodingsAreTheListedWords := by
  intro op
  rw [← toNat_fieldsOf_t, ← toNat_fieldsOf_n, ← toNat_fieldsOf_kk]
  have hdigit : (fieldsOf op).t.toNat < 16 := (fieldsOf op).t.isLt
  simp only [decodeWord]
  split
  case h_1 ht => simp [ht, decode0_eq_error_iff]
  case h_6 ht | h_10 ht => simp [ht, decodeXY0_eq_error_iff]
  case h_9 ht => simp only [ht, decode8_eq_error_iff]; simp
  case h_15 ht => simp only [ht, decodeE_eq_error_iff]; simp
  case h_16 ht => simp only [ht, decodeF_eq_error_iff]; simp
  case h_17 => simp only [imp_false] at *; omega
  all_goals simp [*]

/-- Settles O1: each word is evaluated. -/
theorem sampleWordsDecode : Obligations.SampleWordsDecode := by
  unfold Obligations.SampleWordsDecode
  decide

end Sys2Proof

/-! PROOFS. The meanings of the remaining instructions, one equation per outcome: the calls and jumps (41_flow), the key skips
(42_skip), the index and the memory (44_index_memory), the draw's range (45_display), the random byte and the key wait. When each
of the instructions that can fault does not. -/

namespace Sys2Proof.Machine

section
variable (s : State) (x y : RegIdx) (n : Nibble) (nnn : Addr12) (kk : Byte)

theorem exec_opBNNN : exec (.opBNNN nnn) s = .next (s.setPc (zextAddr nnn + zextByte (s.reg 0))) := rfl
theorem exec_opCXKK : exec (.opCXKK x kk) s = .next (s.consumeRnd.setReg x (s.rnd &&& kk)).advance := rfl
theorem exec_opFX0A : exec (.opFX0A x) s = .next { s with waiting := true, waitReg := x }.advance := rfl
theorem exec_opFX1E :
    exec (.opFX1E x) s = .next ((s.setI (s.i + zextByte (s.reg x))).setFlag (carry16 s.i (s.reg x))).advance := rfl
theorem exec_opFX29 : exec (.opFX29 x) s = .next (s.setI (zextByte (s.reg x) * 5)).advance := rfl

/-! ### Registers read after an update of another field -/

@[simp] theorem State.reg_advance : s.advance.reg x = s.reg x := rfl
@[simp] theorem State.reg_setI (w : Word) : (s.setI w).reg x = s.reg x := rfl
@[simp] theorem State.reg_consumeRnd : s.consumeRnd.reg x = s.reg x := rfl

variable {s x y n nnn}

/-! ### Calls and returns (41_flow R100, R102) -/

theorem exec_op00EE_of_pos {k : Fin 16} (h : s.sp.val = k.val + 1) :
    exec .op00EE s = .next ({ s with sp := ⟨k.val, by omega⟩ }.setPc (s.stack[k] + 2)) := by
  simp only [exec, exec00EE, s.pop_of_pos k h]

theorem exec_op00EE_of_zero (h : s.sp.val = 0) : exec .op00EE s = .next (s.raise .stackUnderflow (some 0x00EE) none) := by
  simp only [exec, exec00EE, s.pop_of_zero h]
  rfl

theorem exec_op2NNN_of_lt (h : s.sp.val < 16) :
    exec (.op2NNN nnn) s =
      .next ({ s with stack := s.stack.set s.sp.val s.pc h, sp := ⟨s.sp.val + 1, by omega⟩ }.setPc (zextAddr nnn)) := by
  simp only [exec, exec2NNN, s.push_of_lt s.pc h]

theorem exec_op2NNN_of_full (h : s.sp.val = 16) :
    exec (.op2NNN nnn) s = .next (s.raise .stackOverflow (some (encodeWord (.op2NNN nnn))) none) := by
  simp only [exec, exec2NNN, s.push_of_full s.pc h]

/-! ### The key skips (42_skip R114, R115) -/

theorem exec_opEX9E_of_le {k : RegIdx} (h : (s.reg x).toNat = k.val) : exec (.opEX9E x) s = .next (s.skipIf s.key[k]) := by
  simp only [exec, execEX9E, keyAt_of_le k h]

theorem exec_opEXA1_of_le {k : RegIdx} (h : (s.reg x).toNat = k.val) : exec (.opEXA1 x) s = .next (s.skipIf !s.key[k]) := by
  simp only [exec, execEXA1, keyAt_of_le k h]

theorem exec_opEX9E_of_gt (h : 15 < (s.reg x).toNat) :
    exec (.opEX9E x) s = .next (s.raise .keyOutOfRange (some (encodeWord (.opEX9E x))) (some (s.reg x).toNat)) := by
  simp only [exec, execEX9E, keyAt_of_gt h]

theorem exec_opEXA1_of_gt (h : 15 < (s.reg x).toNat) :
    exec (.opEXA1 x) s = .next (s.raise .keyOutOfRange (some (encodeWord (.opEXA1 x))) (some (s.reg x).toNat)) := by
  simp only [exec, execEXA1, keyAt_of_gt h]

/-! ### The accesses to memory (44_index_memory R143 to R145, 45_display R151) -/

theorem exec_opDXYN_of_le (h : n.toNat = 0 ∨ s.i.toNat + n.toNat - 1 ≤ 4095) :
    exec (.opDXYN x y n) s =
      .next ({ s with disp := (drawSprite s x y n).disp }.setFlag (drawSprite s x y n).hit).advance := by
  simp only [exec, execDXYN, outOfRange_of_le h]

theorem exec_opDXYN_of_gt (h0 : 0 < n.toNat) (h : 4095 < s.i.toNat + n.toNat - 1) :
    exec (.opDXYN x y n) s =
      .next (s.raise .memOutOfRange (some (encodeWord (.opDXYN x y n))) (some (max s.i.toNat 4096))) := by
  simp only [exec, execDXYN, outOfRange_of_gt h0 h]

theorem exec_opFX33_of_le (h : s.i.toNat + 2 ≤ 4095) :
    exec (.opFX33 x) s = .next (s.storeBytes s.i.toNat (bcdDigits (s.reg x))).advance := by
  simp only [exec, execFX33, outOfRange_of_le (.inr h : 3 = 0 ∨ _)]

theorem exec_opFX33_of_gt (h : 4095 < s.i.toNat + 2) :
    exec (.opFX33 x) s = .next (s.raise .memOutOfRange (some (encodeWord (.opFX33 x))) (some (max s.i.toNat 4096))) := by
  simp only [exec, execFX33, outOfRange_of_gt (by decide : 0 < 3) h]

theorem exec_opFX55_of_le (h : s.i.toNat + x.val ≤ 4095) :
    exec (.opFX55 x) s = .next (s.storeBytes s.i.toNat (regsUpTo s.v x)).advance := by
  simp only [exec, execFX55, outOfRange_of_le (.inr h : x.val + 1 = 0 ∨ _)]

theorem exec_opFX55_of_gt (h : 4095 < s.i.toNat + x.val) :
    exec (.opFX55 x) s = .next (s.raise .memOutOfRange (some (encodeWord (.opFX55 x))) (some (max s.i.toNat 4096))) := by
  simp only [exec, execFX55, outOfRange_of_gt x.val.succ_pos h]

theorem exec_opFX65_of_le (h : s.i.toNat + x.val ≤ 4095) : exec (.opFX65 x) s = .next (s.loadRegs x).advance := by
  simp only [exec, execFX65, outOfRange_of_le (.inr h : x.val + 1 = 0 ∨ _)]

theorem exec_opFX65_of_gt (h : 4095 < s.i.toNat + x.val) :
    exec (.opFX65 x) s = .next (s.raise .memOutOfRange (some (encodeWord (.opFX65 x))) (some (max s.i.toNat 4096))) := by
  simp only [exec, execFX65, outOfRange_of_gt x.val.succ_pos h]

/-! ### What an instruction that can fault leaves when it does not -/

theorem eq_of_exec_op00EE {t : State} (hf : faultOf .op00EE s = none) (h : exec .op00EE s = .next t) :
    ∃ k : Fin 16, s.sp.val = k.val + 1 ∧ t = { s with sp := ⟨k.val, by omega⟩ }.setPc (s.stack[k] + 2) := by
  obtain ⟨hzero, -⟩ | ⟨k, hk, -⟩ := s.pop_cases
  · simp [faultOf, hzero] at hf
  · cases (exec_op00EE_of_pos hk).symm.trans h
    exact ⟨k, hk, rfl⟩

theorem eq_of_exec_op2NNN {t : State} (hf : faultOf (.op2NNN nnn) s = none) (h : exec (.op2NNN nnn) s = .next t) :
    ∃ hlt : s.sp.val < 16,
      t = { s with stack := s.stack.set s.sp.val s.pc hlt, sp := ⟨s.sp.val + 1, by omega⟩ }.setPc (zextAddr nnn) := by
  obtain ⟨hfull, -⟩ | ⟨hlt, -⟩ := s.push_cases s.pc
  · simp [faultOf, hfull] at hf
  · cases (exec_op2NNN_of_lt hlt).symm.trans h
    exact ⟨hlt, rfl⟩

theorem eq_of_exec_opDXYN {t : State} (hf : faultOf (.opDXYN x y n) s = none) (h : exec (.opDXYN x y n) s = .next t) :
    t = ({ s with disp := (drawSprite s x y n).disp }.setFlag (drawSprite s x y n).hit).advance := by
  have hrange : n.toNat = 0 ∨ s.i.toNat + n.toNat - 1 ≤ 4095 := by simp [faultOf] at hf; omega
  cases (exec_opDXYN_of_le hrange).symm.trans h
  rfl

theorem eq_of_exec_opFX33 {t : State} (hf : faultOf (.opFX33 x) s = none) (h : exec (.opFX33 x) s = .next t) :
    s.i.toNat + 2 ≤ 4095 ∧ t = (s.storeBytes s.i.toNat (bcdDigits (s.reg x))).advance := by
  have hrange : s.i.toNat + 2 ≤ 4095 := by simpa [faultOf] using hf
  cases (exec_opFX33_of_le hrange).symm.trans h
  exact ⟨hrange, rfl⟩

theorem eq_of_exec_opFX55 {t : State} (hf : faultOf (.opFX55 x) s = none) (h : exec (.opFX55 x) s = .next t) :
    s.i.toNat + x.val ≤ 4095 ∧ t = (s.storeBytes s.i.toNat (regsUpTo s.v x)).advance := by
  have hrange : s.i.toNat + x.val ≤ 4095 := by simpa [faultOf] using hf
  cases (exec_opFX55_of_le hrange).symm.trans h
  exact ⟨hrange, rfl⟩

theorem eq_of_exec_opFX65 {t : State} (hf : faultOf (.opFX65 x) s = none) (h : exec (.opFX65 x) s = .next t) :
    t = (s.loadRegs x).advance := by
  have hrange : s.i.toNat + x.val ≤ 4095 := by simpa [faultOf] using hf
  cases (exec_opFX65_of_le hrange).symm.trans h
  rfl

theorem eq_of_exec_opEX9E {t : State} (hf : faultOf (.opEX9E x) s = none) (h : exec (.opEX9E x) s = .next t) :
    ∃ c, t = s.skipIf c := by
  obtain ⟨hgt, -⟩ | ⟨k, hk, -⟩ := keyAt_cases s (s.reg x)
  · simp [faultOf, hgt] at hf
  · cases (exec_opEX9E_of_le hk).symm.trans h
    exact ⟨_, rfl⟩

theorem eq_of_exec_opEXA1 {t : State} (hf : faultOf (.opEXA1 x) s = none) (h : exec (.opEXA1 x) s = .next t) :
    ∃ c, t = s.skipIf c := by
  obtain ⟨hgt, -⟩ | ⟨k, hk, -⟩ := keyAt_cases s (s.reg x)
  · simp [faultOf, hgt] at hf
  · cases (exec_opEXA1_of_le hk).symm.trans h
    exact ⟨_, rfl⟩

end

end Sys2Proof.Machine

/-! PROOFS. The statements about single instructions: the call and the return (41_flow), the key skips (42_skip), the flag in VF and
the random byte (43_alu), the index and the memory (44_index_memory), the key wait (46_timer_key), and their faults
(60_exceptions). -/

namespace Sys2Proof.Machine

/-! ### Faults: the record goes into a free latch and nothing else changes (60_exceptions R174, R175) -/

theorem State.raise_of_unfaulted {s : State} (h : s.fault = none) (c : Fault) (o : Option Word) (a : Option Nat) :
    s.raise c o a = { s with fault := some ⟨c, s.pc, o, a⟩ } := by
  rw [State.raise, h, Option.none_or]

/-- Settles O23: a full stack has no room for a push, an empty one no entry to pop. -/
theorem stackFaultsAreTaken : Obligations.StackFaultsAreTaken := by
  intro s nnn hfault
  refine ⟨fun hfull => ?call, fun hempty => ?ret⟩
  case call => rw [exec_op2NNN_of_full hfull, State.raise_of_unfaulted hfault]
  case ret => rw [exec_op00EE_of_zero hempty, State.raise_of_unfaulted hfault]

/-- Settles O24: each of the four checks its whole range before the first access. -/
theorem memoryFaultsAreTakenWhole : Obligations.MemoryFaultsAreTakenWhole := by
  intro s x y n hfault
  refine ⟨fun h0 h => ?draw, fun h => ?bcd, fun h => ?store, fun h => ?load⟩
  case draw => rw [exec_opDXYN_of_gt h0 h, State.raise_of_unfaulted hfault]
  case bcd => rw [exec_opFX33_of_gt h, State.raise_of_unfaulted hfault]
  case store => rw [exec_opFX55_of_gt h, State.raise_of_unfaulted hfault]
  case load => rw [exec_opFX65_of_gt h, State.raise_of_unfaulted hfault]

/-- Settles O37: there is no latch at an index above 15. -/
theorem keyFaultsAreTaken : Obligations.KeyFaultsAreTaken := by
  intro s x hfault h
  rw [exec_opEX9E_of_gt h, exec_opEXA1_of_gt h, State.raise_of_unfaulted hfault, State.raise_of_unfaulted hfault]
  exact ⟨rfl, rfl⟩

/-! ### Control transfer -/

/-- Settles O31: the slot at the old stack pointer takes the address of the call, before the jump. -/
theorem callPushesItsOwnAddress : Obligations.CallPushesItsOwnAddress := by
  intro s nnn hlt
  refine ⟨_, exec_op2NNN_of_lt hlt, rfl, toNat_zextAddr nnn, rfl, fun k => ?_⟩
  rw [State.setPc_stack, Fin.getElem_fin, Vector.getElem_set]
  simp only [eq_comm, Fin.getElem_fin]

/-- Settles O32: the popped slot, plus 2. -/
theorem returnGoesPastTheCall : Obligations.ReturnGoesPastTheCall := fun _ _ hk =>
  ⟨_, exec_op00EE_of_pos hk, rfl, rfl, BitVec.toNat_add _ _⟩

/-- Settles O33: the return pops the slot that the call wrote, whatever the subroutine left in `pc`. -/
theorem returnUndoesTheCall : Obligations.ReturnUndoesTheCall := by
  intro s nnn p hlt
  refine ⟨_, _, exec_op2NNN_of_lt hlt, exec_op00EE_of_pos (k := ⟨s.sp.val, hlt⟩) rfl, ?frame, fun k hne => ?others⟩
  case frame => simp [State.setPc]
  case others => exact Vector.getElem_set_ne hlt _ (Ne.symm hne)

/-- Settles O34: the sum of an address and a byte fits in 16 bits. -/
theorem jumpWithOffsetAddsV0 : Obligations.JumpWithOffsetAddsV0 := by
  intro s nnn
  refine ⟨_, exec_opBNNN s nnn, rfl, ?_⟩
  have hnnn := nnn.isLt
  have hbyte := (s.reg 0).isLt
  rw [State.setPc_pc, BitVec.toNat_add, toNat_zextAddr, toNat_zextByte]
  omega

/-- Settles O36: the two skips test the latch and its negation. -/
theorem keySkipsTestTheLatch : Obligations.KeySkipsTestTheLatch := by
  intro s x k hk
  rw [exec_opEX9E_of_le hk, exec_opEXA1_of_le hk]
  cases s.key[k] <;> exact ⟨rfl, rfl⟩

/-! ### The flag in VF and the random byte -/

/-- With X = 15 the flag takes the place of the result (10_state R12). -/
theorem exec_spec_of_setResultFlag_vf {i : Instr} {s : State} {b : Byte} {f c : Bool}
    (h : exec i s = .next (s.setResultFlag 15 b f).advance) (hf : f = c) :
    ∃ t, exec i s = .next t ∧ t = { s with v := t.v, pc := s.pc + 2 } ∧
      (t.reg 15).toNat = (if c then 1 else 0) ∧ ∀ k, k ≠ 15 → t.reg k = s.reg k := by
  obtain ⟨t, hexec, hframe, -, hflag, hothers⟩ := exec_spec_of_setResultFlag h
  exact ⟨t, hexec, hframe, by rw [hflag, flagByte_toNat, hf], fun k hk => hothers k hk hk⟩

theorem lowBit_eq_decide (b : Byte) : lowBit b = decide (b.toNat % 2 = 1) := by
  rw [lowBit, BitVec.getLsbD, Nat.testBit_zero]

/-- As for `toNat_flagByte_highBit`: the top digit is the whole quotient. -/
theorem highBit_eq_decide (b : Byte) : highBit b = decide (b.toNat / 128 = 1) := by
  have htop : b.toNat / 2 ^ 7 % 2 = b.toNat / 128 := by omega
  rw [highBit, BitVec.getLsbD, Nat.testBit_eq_decide_div_mod_eq, htop]

/-- Settles O43: each of the five writes its flag last. -/
theorem flagSurvivesInVfWhenXIsFifteen : Obligations.FlagSurvivesInVfWhenXIsFifteen := by
  intro s y
  simp only [List.forall_mem_cons, List.not_mem_nil, false_implies, implies_true, and_true]
  exact ⟨exec_spec_of_setResultFlag_vf (exec_op8XY4 s 15 y) rfl, exec_spec_of_setResultFlag_vf (exec_op8XY5 s 15 y) rfl,
    exec_spec_of_setResultFlag_vf (exec_op8XY7 s 15 y) rfl,
    exec_spec_of_setResultFlag_vf (exec_op8XY6 s 15 y) (lowBit_eq_decide _),
    exec_spec_of_setResultFlag_vf (exec_op8XYE s 15 y) (highBit_eq_decide _)⟩

/-- Settles O44: the byte is the head of the host's list, else the free value, whatever that is. -/
theorem randomByteIsMaskedAndUsedOnce : Obligations.RandomByteIsMaskedAndUsedOnce := by
  intro s x kk
  refine ⟨_, exec_opCXKK s x kk, rfl, fun b rest hlist => ?listed, fun hlist => ?free, fun n hn => ?masked, fun k hk => ?others⟩
  case listed => rw [State.reg_advance, State.reg_setReg, if_pos rfl, State.rnd, hlist, List.headD_cons]
  case free => rw [State.reg_advance, State.reg_setReg, if_pos rfl, State.rnd, hlist, List.headD_nil]
  case masked => rw [State.reg_advance, State.reg_setReg, if_pos rfl, BitVec.getLsbD_and, hn, Bool.and_false]
  case others => rw [State.reg_advance, State.reg_setReg, if_neg hk, State.reg_consumeRnd]

/-! ### The index -/

/-- Settles O46: the sum of 16 bits goes to `I`, and its carry to VF alone. -/
theorem addToIndexWithCarryFlag : Obligations.AddToIndexWithCarryFlag := by
  intro s x
  refine ⟨_, exec_opFX1E s x, rfl, ?index, ?flag, fun k hk => ?others⟩
  case index => rw [State.advance_i, State.setFlag_i, State.setI_i, BitVec.toNat_add, toNat_zextByte]
  case flag =>
    rw [State.reg_advance, State.reg_setFlag, if_pos rfl, flagByte_toNat]
    simp only [carry16, decide_eq_true_eq]
  case others => rw [State.reg_advance, State.reg_setFlag, if_neg hk, State.reg_setI]

/-- Settles O47: five times a byte fits in 16 bits. -/
theorem fontAddressIsFiveTimesVx : Obligations.FontAddressIsFiveTimesVx := by
  intro s x
  refine ⟨_, exec_opFX29 s x, rfl, ?_⟩
  have hbyte := (s.reg x).isLt
  rw [State.advance_i, State.setI_i, BitVec.toNat_mul, toNat_zextByte]
  change (s.reg x).toNat * 5 % 65536 = 5 * (s.reg x).toNat
  omega

/-! ### The memory -/

/-- The digits of a byte as numbers: each fits in a byte. -/
theorem toNat_bcdDigits (b : Byte) :
    ((bcdDigits b).getD 0 0).toNat = b.toNat / 100 ∧ ((bcdDigits b).getD 1 0).toNat = b.toNat / 10 % 10 ∧
      ((bcdDigits b).getD 2 0).toNat = b.toNat % 10 := by
  have := b.isLt
  refine ⟨?_, ?_, ?_⟩ <;> exact Nat.mod_eq_of_lt (by omega)

/-- Settles O48: the block written is the three digits, hundreds first. -/
theorem bcdStoresThreeDigits : Obligations.BcdStoresThreeDigits := by
  intro s x hrange
  obtain ⟨hhundreds, htens, hones⟩ := toNat_bcdDigits (s.reg x)
  refine ⟨_, exec_opFX33_of_le hrange, rfl, ?hundreds, ?tens, ?ones, fun a ha => ?others⟩
  all_goals rw [State.advance_mem, State.storeBytes_mem, Memory.read_writeBytes, length_bcdDigits]
  case hundreds => rw [if_pos (by omega), Nat.sub_self, hhundreds]
  case tens => rw [if_pos (by omega), Nat.add_sub_cancel_left, htens]
  case ones => rw [if_pos (by omega), Nat.add_sub_cancel_left, hones]
  case others => rw [if_neg (by omega)]

/-- Settles O49: the block written is the registers up to X, in order. -/
theorem storeRegistersStoresTheBlock : Obligations.StoreRegistersStoresTheBlock := by
  intro s x hrange
  refine ⟨_, exec_opFX55_of_le hrange, rfl, fun k hk => ?block, fun a ha => ?others⟩
  all_goals rw [State.advance_mem, State.storeBytes_mem, Memory.read_writeBytes, length_regsUpTo]
  case block =>
    have hle : k.val ≤ x.val := hk
    rw [if_pos (by omega), Nat.add_sub_cancel_left, getD_regsUpTo _ _ _ hk, State.reg_eq]
  case others => rw [if_neg (by omega)]

/-- Settles O50: a register up to X takes its byte, one above X stays. -/
theorem loadRegistersLoadsTheBlock : Obligations.LoadRegistersLoadsTheBlock := by
  intro s x hrange
  refine ⟨_, exec_opFX65_of_le hrange, rfl, fun k hk => ?block, fun k hk => ?others⟩
  case block => rw [State.reg_advance, State.reg_loadRegs, if_pos hk]
  case others => rw [State.reg_advance, State.reg_loadRegs, if_neg (not_le_of_gt hk)]

/-- Settles O10: the first two bytes of the block FX55 stores are the two bytes a fetch at `I` reads. -/
theorem storedBytesAreFetchedNext : Obligations.StoredBytesAreFetchedNext := by
  intro s x hx hrange
  obtain ⟨t, hexec, -, hblock, -⟩ := storeRegistersStoresTheBlock s x hrange
  refine ⟨t, hexec, ?_⟩
  have h0 : t.mem.read s.i.toNat = s.reg 0 := hblock 0 (Fin.zero_le x)
  have h1 : t.mem.read (s.i.toNat + 1) = s.reg 1 := hblock 1 hx
  rw [State.fetchWord, toNat_wordOfBytes, State.setPc_mem, State.setPc_pc, h0, h1]

/-! ### The key wait -/

/-- Settles O55: no fault is latched, so the wait is what the status shows. -/
theorem keyWaitIsEntered : Obligations.KeyWaitIsEntered := by
  intro s x hfault
  refine ⟨_, exec_opFX0A s x, rfl, ?_⟩
  simp [State.status, hfault]

end Sys2Proof.Machine

/-! PROOFS. The statements about the tick (40_tick), about the faults (60_exceptions) and about runs of ticks: one equation per path of
the tick, from which each statement follows. -/

namespace Sys2Proof.Machine

section
variable {s : State}

/-! ### The paths of the tick (40_tick R80) -/

theorem step_of_faulted {r : FaultRecord} (hfault : s.fault = some r) : step s = .next s.sampleKeys := by
  simp [step, tick, tickBody, hfault]

theorem step_of_fetch_fault (hrun : s.Running) (hpc : 0xFFE < s.pc.toNat) :
    step s = .next (s.sampleKeys.raise .fetchOutOfRange none none) := by
  obtain ⟨hfault, hwait⟩ := hrun
  simp [step, tick, tickBody, hfault, hwait, hpc, Config.lastFetch]

/-- A running tick with `pc` in range executes the word at `pc` (40_tick R84, R85). -/
theorem step_of_fetch (hrun : s.Running) (hpc : s.pc.toNat ≤ 0xFFE) :
    step s = finishTick (execWord s.fetchWord s.sampleKeys) := by
  obtain ⟨hfault, hwait⟩ := hrun
  have hfetch : s.sampleKeys.fetchWord = s.fetchWord := rfl
  simp [step, tick, tickBody, hfault, hwait, Nat.not_lt.2 hpc, Config.lastFetch, hfetch]

theorem step_of_unknown {e : DecodeError} (hrun : s.Running) (hpc : s.pc.toNat ≤ 0xFFE) (hd : decodeWord s.fetchWord = .error e) :
    step s = .next (s.sampleKeys.emit s.fetchWord).advance.countdown := by
  rw [step_of_fetch hrun hpc]
  simp [execWord, hd, execUnknown, finishTick, hrun.1]

/-- The countdown follows an instruction that did not fault (40_tick R88). -/
theorem step_of_exec {i : Instr} {u : State} (hrun : s.Running) (hpc : s.pc.toNat ≤ 0xFFE) (hd : decodeWord s.fetchWord = .ok i)
    (he : exec i s.sampleKeys = .next u) : step s = .next (if u.fault.isSome then u else u.countdown) := by
  rw [step_of_fetch hrun hpc]
  simp only [execWord, hd, he, finishTick]
  split <;> rfl

theorem step_of_exec_unfaulted {i : Instr} {u : State} (hrun : s.Running) (hpc : s.pc.toNat ≤ 0xFFE)
    (hd : decodeWord s.fetchWord = .ok i) (he : exec i s.sampleKeys = .next u) (hu : u.fault = none) :
    step s = .next u.countdown := by
  rw [step_of_exec hrun hpc hd he, hu]
  rfl

/-- The wait check touches one register and the wait flag: the latch, the memory, `pc` and the stack stay (40_tick R82). -/
theorem State.waitCheck_frame (s : State) : s.waitCheck = { s with v := s.waitCheck.v, waiting := s.waitCheck.waiting } := by
  obtain ⟨-, h⟩ | ⟨j, -, -, h⟩ := s.waitCheck_cases <;> rw [h]
  rfl

end

/-- Settles O21: of the paths of the tick, two latch a record: the fetch's, and an instruction's own, whose opcode is the encoding of
the instruction decoded, so the fetched word. -/
theorem faultingTickChangesOnlyTheLatch : Obligations.FaultingTickChangesOnlyTheLatch := by
  intro s t r hfault hstep ht
  have hsample : s.sampleKeys.fault = none := hfault
  obtain ⟨hsome, -⟩ | ⟨-, -, h⟩ | ⟨-, -, h⟩ | ⟨-, -, -, h⟩ | ⟨i, c, a, -, -, hd, -, hc, h⟩ | ⟨i, u, -, -, -, -, -, hu, h⟩ := step_cases s
  · simp [hfault] at hsome
  all_goals cases h.symm.trans hstep
  · rw [State.waitCheck_frame, hsample] at ht
    cases ht
  · rw [State.raise_of_unfaulted hsample] at ht ⊢
    cases ht
    exact ⟨rfl, rfl, rfl⟩
  · simp [hfault] at ht
  · rw [State.raise_of_unfaulted hsample] at ht ⊢
    cases ht
    exact ⟨rfl, rfl, by rw [if_neg hc, encodeWord_of_decodeWord hd]⟩
  · simp [hu] at ht

/-- Settles O22: the check of the fetch comes first, then the instruction's own condition; an unknown encoding has none. -/
theorem runningTickFaultsExactlyAsListed : Obligations.RunningTickFaultsExactlyAsListed := by
  intro s hrun
  obtain ⟨hfault, hwait⟩ := hrun
  obtain ⟨hsome, -⟩ | ⟨-, hwaiting, -⟩ | ⟨-, hpc, h⟩ | ⟨-, hpc, ⟨e, hd⟩, h⟩ | ⟨i, c, a, -, hpc, hd, hc, -, h⟩ |
    ⟨i, u, -, hpc, hd, hc, -, hu, h⟩ := step_cases s
  · simp [hfault] at hsome
  · simp [hwait] at hwaiting
  all_goals refine ⟨_, h, ?_⟩
  · simp [tickFaultOf, hpc, hfault]
  all_goals rw [tickFaultOf, if_neg (Nat.not_lt.2 hpc), hd]
  · simp [hfault]
  · simp [hfault, hc]
  · simp [hu, hc]

/-- Settles O18: every path of the tick ends in a next state. -/
theorem everyStepAnswersANextState : Obligations.EveryStepAnswersANextState := by
  intro s
  obtain ⟨-, h⟩ | ⟨-, -, h⟩ | ⟨-, -, h⟩ | ⟨-, -, -, h⟩ | ⟨_, _, _, -, -, -, -, -, h⟩ | ⟨_, _, -, -, -, -, -, -, h⟩ := step_cases s
  all_goals exact ⟨_, h⟩

/-- Settles O11: the two bytes at `pc` are those of the fetched word. -/
theorem stepRunsTheDecodedInstruction : Obligations.StepRunsTheDecodedInstruction := by
  intro s u i hrun hpc hd he
  rw [decode_two] at hd
  change (decodeWord s.fetchWord).map _ = _ at hd
  cases hword : decodeWord s.fetchWord <;> rw [hword] at hd <;> cases hd
  exact step_of_exec hrun hpc hword he

/-- Settles O12: below the end of the memory `pc + 2` does not wrap, and each timer goes down by one. -/
theorem unknownEncodingOnlyNotifiesAndAdvances : Obligations.UnknownEncodingOnlyNotifiesAndAdvances := by
  intro s e hrun hpc hd
  have hadvance : (s.pc + 2).toNat = s.pc.toNat + 2 := by bv_omega
  exact ⟨_, step_of_unknown hrun hpc hd, rfl, hadvance, countedDown_toNat s.dt, countedDown_toNat s.st⟩

/-- Settles O13: the record of the fetch has neither word nor address. -/
theorem fetchOutOfRangeFaults : Obligations.FetchOutOfRangeFaults := by
  intro s hrun hpc
  have hsample : s.sampleKeys.fault = none := hrun.1
  rw [step_of_fetch_fault hrun hpc, State.raise_of_unfaulted hsample]
  rfl

/-- Settles O14: the tick only samples the latches. -/
theorem faultedTickIsTheIdentity : Obligations.FaultedTickIsTheIdentity :=
  fun _ _ hfault => ⟨step_of_faulted hfault, rfl⟩

/-- Settles O16: the wait check takes the least key down. -/
theorem waitingTickWritesTheLeastKey : Obligations.WaitingTickWritesTheLeastKey := by
  intro s j hfault hwait hj hleast
  refine ⟨_, step_of_waiting hfault hwait, ?_⟩
  rw [State.waitCheck_of_least _ j hj hleast]
  exact ⟨s.sampleKeys.toNat_reg_setReg_key s.waitReg j, rfl⟩

/-- Settles O17: the countdown is on the state the instruction leaves, so after a read of `dt` and after a write of either timer. -/
theorem countdownFollowsTheInstruction : Obligations.CountdownFollowsTheInstruction := by
  refine ⟨fun s u i hrun hpc hd he hu => ?every, fun s x hrun hpc => ⟨fun hd => ?readDt, fun hd => ?setDt, fun hd => ?setSt⟩⟩
  case every =>
    exact ⟨_, step_of_exec_unfaulted hrun hpc hd he hu, rfl, countedDown_toNat u.dt, countedDown_toNat u.st⟩
  case readDt =>
    refine ⟨_, step_of_exec_unfaulted hrun hpc hd (exec_opFX07 x s.sampleKeys) hrun.1, ?_, countedDown_toNat s.dt,
      countedDown_toNat s.st⟩
    exact (s.sampleKeys.reg_setReg x x s.dt).trans (if_pos rfl)
  case setDt =>
    exact ⟨_, step_of_exec_unfaulted hrun hpc hd (exec_opFX15 x s.sampleKeys) hrun.1, countedDown_toNat (s.reg x),
      countedDown_toNat s.st⟩
  case setSt =>
    exact ⟨_, step_of_exec_unfaulted hrun hpc hd (exec_opFX18 x s.sampleKeys) hrun.1, countedDown_toNat (s.reg x),
      countedDown_toNat s.dt⟩

/-! ### Runs of ticks -/

/-- A run of one tick more is a tick and then the run: no tick ends it. -/
theorem run_succ_iff {k : Nat} {s t : State} :
    Sys2Proof.core.run (k + 1) s = .next t ↔ ∃ u, step s = .next u ∧ Sys2Proof.core.run k u = .next t := by
  obtain ⟨u, hu⟩ := everyStepAnswersANextState s
  have hrun : Sys2Proof.core.run (k + 1) s = Sys2Proof.core.run k u := by
    have hcore : Sys2Proof.core.step s = .next u := hu
    simp only [Host.Core.run, hcore]
  rw [hrun, hu]
  exact ⟨fun h => ⟨u, rfl, h⟩, fun ⟨_, he, h⟩ => by cases he; exact h⟩

theorem run_add {j k : Nat} {s t : State} (h : Sys2Proof.core.run (j + k) s = .next t) :
    ∃ u, Sys2Proof.core.run j s = .next u ∧ Sys2Proof.core.run k u = .next t := by
  induction j generalizing s with
  | zero => exact ⟨s, rfl, by rwa [Nat.zero_add] at h⟩
  | succ j ih =>
    rw [Nat.succ_add] at h
    obtain ⟨s', hstep, hrest⟩ := run_succ_iff.1 h
    obtain ⟨u, hj, hk⟩ := ih hrest
    exact ⟨u, run_succ_iff.2 ⟨s', hstep, hj⟩, hk⟩

/-- Settles O19, by induction on the ticks: each only samples the latches. -/
theorem faultLatchIsNeverClearedOrOverwritten : Obligations.FaultLatchIsNeverClearedOrOverwritten := by
  intro s t r hfault k hrun
  induction k generalizing s with
  | zero => cases hrun; exact hfault
  | succ k ih =>
    obtain ⟨u, hstep, hrest⟩ := run_succ_iff.1 hrun
    cases (step_of_faulted hfault).symm.trans hstep
    exact ih s.sampleKeys hfault hrest

/-- Settles O20: a record latched on the way would still be latched at the end. -/
theorem safeRunsNeverFaultOnTheWay : Obligations.SafeRunsNeverFaultOnTheWay := by
  intro j k s t ⟨hrun, hsafe⟩
  obtain ⟨u, hj, hk⟩ := run_add hrun
  have hu : u.fault = none := by
    by_contra hne
    obtain ⟨r, hr⟩ := Option.ne_none_iff_exists'.1 hne
    have ht := faultLatchIsNeverClearedOrOverwritten u t r hr k hk
    rw [hsafe] at ht
    cases ht
  exact ⟨u, ⟨hj, hu⟩, hk, hsafe⟩

end Sys2Proof.Machine

/-! PROOFS. The statements about every instruction: who writes which part of the state, VF and `pc` (10_state), and what no instruction
reads (the sound timer, and but for the key skips the latches). Each is a case split over the instructions; the eight that can fault
are taken by what they leave when they do not. -/

namespace Sys2Proof.Machine

section
variable {i : Instr} {s t : State}

/-- What an instruction leaves unchanged, field by field, unless it is one of those that write the field (10_state R10 to R27). -/
structure Frame (i : Instr) (s t : State) : Prop where
  mem : (∀ x, i ≠ .opFX33 x) → (∀ x, i ≠ .opFX55 x) → t.mem = s.mem
  disp : i ≠ .op00E0 → (∀ x y n, i ≠ .opDXYN x y n) → t.disp = s.disp
  index : (∀ n, i ≠ .opANNN n) → (∀ x, i ≠ .opFX1E x) → (∀ x, i ≠ .opFX29 x) → t.i = s.i
  stack : (∀ n, i ≠ .op2NNN n) → t.stack = s.stack
  sp : (∀ n, i ≠ .op2NNN n) → i ≠ .op00EE → t.sp = s.sp
  dt : (∀ x, i ≠ .opFX15 x) → t.dt = s.dt
  st : (∀ x, i ≠ .opFX18 x) → t.st = s.st
  wait : (∀ x, i ≠ .opFX0A x) → t.waiting = s.waiting ∧ t.waitReg = s.waitReg
  random : (∀ x k, i ≠ .opCXKK x k) → t.rndInputs = s.rndInputs ∧ t.draws = s.draws
  host : t.key = s.key ∧ t.keyInputs = s.keyInputs ∧ t.diag = s.diag

/-- A fault changes the latch alone, which is in no frame. -/
theorem Frame.raise (i : Instr) (s : State) (c : Fault) (o : Option Word) (a : Option Nat) : Frame i s (s.raise c o a) := by
  constructor <;> simp

theorem Frame.of_exec (h : exec i s = .next t) : Frame i s t := by
  obtain ⟨c, a, -, -, hraise⟩ | ⟨hf, -⟩ := exec_cases i s
  · cases hraise.symm.trans h
    exact Frame.raise i s c _ a
  cases i with
  | op00EE => obtain ⟨k, -, rfl⟩ := eq_of_exec_op00EE hf h; constructor <;> simp
  | op2NNN nnn => obtain ⟨hlt, rfl⟩ := eq_of_exec_op2NNN hf h; constructor <;> simp
  | opDXYN x y n => cases eq_of_exec_opDXYN hf h; constructor <;> simp
  | opFX33 x => obtain ⟨-, rfl⟩ := eq_of_exec_opFX33 hf h; constructor <;> simp
  | opFX55 x => obtain ⟨-, rfl⟩ := eq_of_exec_opFX55 hf h; constructor <;> simp
  | opFX65 x => cases eq_of_exec_opFX65 hf h; constructor <;> simp
  | opEX9E x => obtain ⟨c, rfl⟩ := eq_of_exec_opEX9E hf h; constructor <;> simp
  | opEXA1 x => obtain ⟨c, rfl⟩ := eq_of_exec_opEXA1 hf h; constructor <;> simp
  | _ => cases h; constructor <;> simp

end

/-- Settles O56: the frame of the instruction, memory read address by address. -/
theorem onlyTheNamedInstructionsWriteEachState : Obligations.OnlyTheNamedInstructionsWriteEachState := by
  intro i s t h
  obtain ⟨hmem, hdisp, hindex, hstack, hsp, hdt, hst, hwait, hrandom, hhost⟩ := Frame.of_exec h
  exact ⟨fun h33 h55 a => by rw [hmem h33 h55], hdisp, hindex, hstack, hsp, hdt, hst, hwait, hrandom, hhost⟩

theorem flagByte_eq_zero_or_one (b : Bool) : flagByte b = 0 ∨ flagByte b = 1 := by
  cases b <;> simp [flagByte]

/-- Settles O57: a flag writer writes VF last, an instruction with a destination writes that register alone. -/
theorem onlySevenInstructionsWriteAFlag : Obligations.OnlySevenInstructionsWriteAFlag := by
  intro i s t hf h
  cases i with
  | op00EE => obtain ⟨k, -, rfl⟩ := eq_of_exec_op00EE hf h; rfl
  | op2NNN nnn => obtain ⟨hlt, rfl⟩ := eq_of_exec_op2NNN hf h; rfl
  | opFX33 x => obtain ⟨-, rfl⟩ := eq_of_exec_opFX33 hf h; rfl
  | opFX55 x => obtain ⟨-, rfl⟩ := eq_of_exec_opFX55 hf h; rfl
  | opEX9E x => obtain ⟨c, rfl⟩ := eq_of_exec_opEX9E hf h; rfl
  | opEXA1 x => obtain ⟨c, rfl⟩ := eq_of_exec_opEXA1 hf h; rfl
  | opFX65 x =>
    cases eq_of_exec_opFX65 hf h
    simp only [vfEffect]
    intro hx
    have hlt : x < 15 := lt_of_le_of_ne (Fin.le_last x) hx
    rw [State.reg_advance, State.reg_loadRegs, if_neg (not_le_of_gt hlt)]
  | opDXYN x y n =>
    cases eq_of_exec_opDXYN hf h
    simpa [vfEffect] using flagByte_eq_zero_or_one _
  | op8XY4 x y | op8XY5 x y | op8XY6 x y | op8XY7 x y | op8XYE x y | opFX1E x =>
    cases h
    simpa [vfEffect] using flagByte_eq_zero_or_one _
  | op6XKK x kk | op7XKK x kk | op8XY0 x y | op8XY1 x y | op8XY2 x y | op8XY3 x y | opCXKK x kk | opFX07 x =>
    cases h
    simp only [vfEffect]
    intro hx
    simp [Ne.symm hx]
  | _ => cases h; rfl

/-- Settles O58: every meaning but a jump, call or return ends in the advance or in the skip. -/
theorem pcAdvancesByTwoOrSkips : Obligations.PcAdvancesByTwoOrSkips := by
  intro i s t hf h
  have hskip (c : Bool) : (s.skipIf c).pc = s.pc + 2 ∨ (s.skipIf c).pc = s.pc + 4 := by cases c <;> simp
  cases i with
  | op00EE | op1NNN _ | op2NNN _ | opBNNN _ => exact ⟨nofun, nofun⟩
  | opEX9E x => obtain ⟨c, rfl⟩ := eq_of_exec_opEX9E hf h; exact ⟨nofun, fun _ => hskip c⟩
  | opEXA1 x => obtain ⟨c, rfl⟩ := eq_of_exec_opEXA1 hf h; exact ⟨nofun, fun _ => hskip c⟩
  | op3XKK _ _ | op4XKK _ _ | op5XY0 _ _ | op9XY0 _ _ => cases h; exact ⟨nofun, fun _ => hskip _⟩
  | opDXYN x y n => cases eq_of_exec_opDXYN hf h; exact ⟨fun _ => rfl, nofun⟩
  | opFX33 x => obtain ⟨-, rfl⟩ := eq_of_exec_opFX33 hf h; exact ⟨fun _ => rfl, nofun⟩
  | opFX55 x => obtain ⟨-, rfl⟩ := eq_of_exec_opFX55 hf h; exact ⟨fun _ => rfl, nofun⟩
  | opFX65 x => cases eq_of_exec_opFX65 hf h; exact ⟨fun _ => rfl, nofun⟩
  | _ => cases h; exact ⟨fun _ => rfl, nofun⟩

/-- The state with another sound timer and other latches. -/
def State.withStKey (s : State) (b : Byte) (keys : Keys) : State := { s with st := b, key := keys }

section
variable {i : Instr} {s t : State} (b : Byte)

/-- Every instruction but the key skips and FX18 carries the sound timer and the latches along unread: with others it takes the same
path to the same state with the others. -/
theorem exec_with_st_key (keys : Keys) (h9E : ∀ x, i ≠ .opEX9E x) (hA1 : ∀ x, i ≠ .opEXA1 x) (h18 : ∀ x, i ≠ .opFX18 x)
    (h : exec i s = .next t) : exec i (s.withStKey b keys) = .next (t.withStKey b keys) := by
  cases i with
  | op00EE =>
    obtain ⟨hzero, -⟩ | ⟨k, hk, -⟩ := s.pop_cases
    · cases (exec_op00EE_of_zero hzero).symm.trans h
      exact exec_op00EE_of_zero (s := s.withStKey b keys) hzero
    · cases (exec_op00EE_of_pos hk).symm.trans h
      exact exec_op00EE_of_pos (s := s.withStKey b keys) hk
  | op2NNN nnn =>
    obtain ⟨hfull, -⟩ | ⟨hlt, -⟩ := s.push_cases s.pc
    · cases (exec_op2NNN_of_full hfull).symm.trans h
      exact exec_op2NNN_of_full (s := s.withStKey b keys) hfull
    · cases (exec_op2NNN_of_lt hlt).symm.trans h
      exact exec_op2NNN_of_lt (s := s.withStKey b keys) hlt
  | opDXYN x y n =>
    obtain ⟨hle, -⟩ | ⟨hpos, hgt, -⟩ := outOfRange_cases s.i.toNat n.toNat
    · cases (exec_opDXYN_of_le hle).symm.trans h
      exact exec_opDXYN_of_le (s := s.withStKey b keys) hle
    · cases (exec_opDXYN_of_gt hpos hgt).symm.trans h
      exact exec_opDXYN_of_gt (s := s.withStKey b keys) hpos hgt
  | opFX33 x =>
    obtain hle | hgt := le_or_gt (s.i.toNat + 2) 4095
    · cases (exec_opFX33_of_le hle).symm.trans h
      exact exec_opFX33_of_le (s := s.withStKey b keys) hle
    · cases (exec_opFX33_of_gt hgt).symm.trans h
      exact exec_opFX33_of_gt (s := s.withStKey b keys) hgt
  | opFX55 x =>
    obtain hle | hgt := le_or_gt (s.i.toNat + x.val) 4095
    · cases (exec_opFX55_of_le hle).symm.trans h
      exact exec_opFX55_of_le (s := s.withStKey b keys) hle
    · cases (exec_opFX55_of_gt hgt).symm.trans h
      exact exec_opFX55_of_gt (s := s.withStKey b keys) hgt
  | opFX65 x =>
    obtain hle | hgt := le_or_gt (s.i.toNat + x.val) 4095
    · cases (exec_opFX65_of_le hle).symm.trans h
      exact exec_opFX65_of_le (s := s.withStKey b keys) hle
    · cases (exec_opFX65_of_gt hgt).symm.trans h
      exact exec_opFX65_of_gt (s := s.withStKey b keys) hgt
  | opEX9E x => exact absurd rfl (h9E x)
  | opEXA1 x => exact absurd rfl (hA1 x)
  | opFX18 x => exact absurd rfl (h18 x)
  | _ => cases h; rfl

/-- The sound timer is carried along by every instruction: the key skips do not read it, and FX18 writes it from a register. -/
theorem exec_with_st (h : exec i s = .next t) : ∃ b', exec i { s with st := b } = .next { t with st := b' } := by
  cases i with
  | opEX9E x =>
    obtain ⟨hgt, -⟩ | ⟨k, hk, -⟩ := keyAt_cases s (s.reg x)
    · cases (exec_opEX9E_of_gt hgt).symm.trans h
      exact ⟨b, exec_opEX9E_of_gt (s := { s with st := b }) hgt⟩
    · cases (exec_opEX9E_of_le hk).symm.trans h
      exact ⟨b, exec_opEX9E_of_le (s := { s with st := b }) hk⟩
  | opEXA1 x =>
    obtain ⟨hgt, -⟩ | ⟨k, hk, -⟩ := keyAt_cases s (s.reg x)
    · cases (exec_opEXA1_of_gt hgt).symm.trans h
      exact ⟨b, exec_opEXA1_of_gt (s := { s with st := b }) hgt⟩
    · cases (exec_opEXA1_of_le hk).symm.trans h
      exact ⟨b, exec_opEXA1_of_le (s := { s with st := b }) hk⟩
  | opFX18 x => cases h; exact ⟨s.reg x, rfl⟩
  | _ =>
    refine ⟨b, (exec_with_st_key b s.key (by simp) (by simp) (by simp) h).trans ?_⟩
    rw [State.withStKey, ← (Frame.of_exec h).host.1]

end

/-- Settles O59: but for FX18, which writes `st` from a register whatever the latches are, the instruction leaves `st` as it was. -/
theorem keysMatterOnlyToTheKeySkips : Obligations.KeysMatterOnlyToTheKeySkips := by
  intro i s t keys h9E hA1 h
  cases i with
  | opFX18 x => cases h; rfl
  | _ =>
    refine (exec_with_st_key s.st keys h9E hA1 (by simp) h).trans ?_
    rw [State.withStKey, ← (Frame.of_exec h).st (by simp)]

section
variable {s t : State} (b : Byte)

theorem State.waitCheck_with_st (s : State) : ({ s with st := b } : State).waitCheck = { s.waitCheck with st := b } := by
  unfold State.waitCheck
  cases s.key.least <;> rfl

/-- A tick that executes an instruction carries the sound timer along, counted down unless the instruction faults. -/
theorem step_with_st_of_decoded {i : Instr} (hrun : s.Running) (hpc : s.pc.toNat ≤ 0xFFE) (hd : decodeWord s.fetchWord = .ok i)
    (h : step s = .next t) : ∃ b', step { s with st := b } = .next { t with st := b' } := by
  obtain ⟨u, hu⟩ : ∃ u, exec i s.sampleKeys = .next u := by
    obtain ⟨c, a, -, -, he⟩ | ⟨-, u, he, -⟩ := exec_cases i s.sampleKeys
    exacts [⟨_, he⟩, ⟨u, he⟩]
  cases (step_of_exec hrun hpc hd hu).symm.trans h
  obtain ⟨b', hu'⟩ := exec_with_st b hu
  have hstep := step_of_exec (s := { s with st := b }) hrun hpc hd hu'
  by_cases hfault : u.fault.isSome = true
  · exact ⟨b', by rw [hstep, if_pos hfault, if_pos hfault]⟩
  · exact ⟨countedDown b', by rw [hstep, if_neg hfault, if_neg hfault]; rfl⟩

end

/-- Settles O60: no path of the tick is chosen by the sound timer, and along each it is carried, counted down, or written over. -/
theorem soundTimerIsUnobservable : Obligations.SoundTimerIsUnobservable := by
  intro s t b hstep
  obtain ⟨hsome, h⟩ | ⟨hfault, hwait, h⟩ | ⟨hrun, hpc, h⟩ | ⟨hrun, hpc, ⟨e, hd⟩, h⟩ | ⟨i, c, a, hrun, hpc, hd, -⟩ |
    ⟨i, u, hrun, hpc, hd, -⟩ := step_cases s
  · cases h.symm.trans hstep
    obtain ⟨r, hr⟩ := Option.isSome_iff_exists.1 hsome
    exact ⟨b, step_of_faulted (s := { s with st := b }) hr⟩
  · cases h.symm.trans hstep
    exact ⟨b, (step_of_waiting (s := { s with st := b }) hfault hwait).trans (congrArg _ (s.sampleKeys.waitCheck_with_st b))⟩
  · cases h.symm.trans hstep
    exact ⟨b, step_of_fetch_fault (s := { s with st := b }) hrun hpc⟩
  · cases h.symm.trans hstep
    exact ⟨countedDown b, step_of_unknown (s := { s with st := b }) hrun hpc hd⟩
  · exact step_with_st_of_decoded b hrun hpc hd hstep
  · exact step_with_st_of_decoded b hrun hpc hd hstep

end Sys2Proof.Machine

/-! PROOFS. The statements about the memory's form (20_memory), the state after reset (70_reset, 10_state section 12) and the invariant
of every tick boundary (10_state sections 3, 4 and 8). -/

namespace Sys2Proof.Machine

/-! ### Memory: reads after writes, and the canonical form -/

/-- Settles O8: the read-after-write law at the address written and at every other one. -/
theorem memoryReadsTheLastWrite : Obligations.MemoryReadsTheLastWrite := fun m a b =>
  ⟨(m.read_write a b a).trans (if_pos rfl), fun a' ha => (m.read_write a b a').trans (if_neg ha)⟩

/-- A canonical memory lists nothing below its first address. -/
theorem Memory.read_of_lt {lo a : Nat} {m : Memory} (hm : Memory.wfFrom lo m = true) (ha : a < lo) : m.read a = Memory.unlisted a := by
  induction m generalizing lo with
  | nil => rfl
  | cons c m ih =>
    obtain ⟨hlo, -, -, hrest⟩ := (Memory.wfFrom_cons ..).1 hm
    rw [Memory.read_cons, if_neg (by omega)]
    exact ih hrest (by omega)

/-- A canonical memory lists its first address: an entry there is not what the address reads as unlisted. -/
theorem Memory.read_head_ne {lo : Nat} {c : Host.Cell} {m : Memory} (hm : Memory.wfFrom lo (c :: m) = true) :
    Memory.read (c :: m) c.1 ≠ Memory.unlisted c.1 := by
  obtain ⟨-, -, hne, -⟩ := (Memory.wfFrom_cons ..).1 hm
  rwa [Memory.read_cons, if_pos rfl]

/-- The first address of a canonical memory is listed in every canonical memory that reads alike, so not before its first one. -/
theorem Memory.head_le_head {lo lo' : Nat} {c c' : Host.Cell} {m m' : Memory} (hm : Memory.wfFrom lo (c :: m) = true)
    (hm' : Memory.wfFrom lo' (c' :: m') = true) (h : ∀ a, Memory.read (c :: m) a = Memory.read (c' :: m') a) : c'.1 ≤ c.1 := by
  obtain ⟨-, hrest⟩ := (Memory.wfFrom_cons ..).1 hm'
  have hfrom : Memory.wfFrom c'.1 (c' :: m') = true := (Memory.wfFrom_cons ..).2 ⟨le_rfl, hrest⟩
  by_contra hlt
  exact Memory.read_head_ne hm ((h c.1).trans (Memory.read_of_lt hfrom (Nat.lt_of_not_le hlt)))

/-- Canonical memories that read alike begin with the same entry, and their tails read alike. -/
theorem Memory.eq_of_read_eq {lo : Nat} {m m' : Memory} (hm : Memory.wfFrom lo m = true) (hm' : Memory.wfFrom lo m' = true)
    (h : ∀ a, m.read a = m'.read a) : m = m' := by
  induction m generalizing lo m' with
  | nil =>
    cases m' with
    | nil => rfl
    | cons c' m' => exact absurd (h c'.1).symm (Memory.read_head_ne hm')
  | cons c m ih =>
    cases m' with
    | nil => exact absurd (h c.1) (Memory.read_head_ne hm)
    | cons c' m' =>
      have haddr : c.1 = c'.1 := le_antisymm (Memory.head_le_head hm' hm fun a => (h a).symm) (Memory.head_le_head hm hm' h)
      obtain ⟨-, -, -, hrest⟩ := (Memory.wfFrom_cons ..).1 hm
      obtain ⟨-, -, -, hrest'⟩ := (Memory.wfFrom_cons ..).1 hm'
      rw [← haddr] at hrest'
      have hbyte : c.2 = c'.2 := by simpa [Memory.read_cons, haddr] using h c.1
      have htail (a : Nat) : Memory.read m a = Memory.read m' a := by
        by_cases ha : c.1 = a
        · rw [Memory.read_of_lt hrest (by omega), Memory.read_of_lt hrest' (by omega)]
        · simpa [Memory.read_cons, ← haddr, ha] using h a
      rw [Prod.ext haddr hbyte, ih hrest hrest' htail]

/-- Settles O9: the canonical form starts from address 0, and from any start the bytes decide the list. -/
theorem canonicalMemoriesWithEqualBytesAreEqual : Obligations.CanonicalMemoriesWithEqualBytesAreEqual :=
  fun _ _ => Memory.eq_of_read_eq

/-! ### Reset -/

/-- With the default font and no program a reset lists nothing: every byte is what its address reads as unlisted. -/
theorem State.reset_eq_resetWith : State.reset = State.resetWith [] defaultFont := by
  simp only [State.resetWith, List.take_nil, Memory.writeBytes, Memory.writeBytes_defaultFont]
  rfl

/-- Settles O25: a reset with a program and a font differs from `State.reset` in the memory alone. -/
theorem resetStateHasTheListedValues : Obligations.ResetStateHasTheListedValues := by
  refine ⟨fun program font => ?_, State.reset_eq_resetWith⟩
  exact ⟨fun x => Vector.getElem_replicate x.isLt, rfl, rfl, fun k => Vector.getElem_replicate k.isLt, rfl, rfl, rfl,
    Display.pixel_clear, fun k => Vector.getElem_replicate k.isLt, rfl, rfl, rfl, rfl⟩

/-- Settles O28: the font's block and the program's block lie below 4096, and no slot of the stack is in use. -/
theorem invariantHoldsAfterEveryReset : Obligations.InvariantHoldsAfterEveryReset := by
  intro program font
  refine ⟨?memory, ?pc, fun k hk => ?stack, fun hfault => ?faulted⟩
  case memory =>
    have hfont : 0 + font.toList.length ≤ 4096 := by rw [Vector.length_toList]; decide
    have hprogram : Config.progBase + (program.take Config.progMax).length ≤ 4096 := by
      have := List.length_take_le Config.progMax program
      simp only [Config.progBase, Config.progMax] at *
      omega
    exact Memory.wf_writeBytes _ hprogram (Memory.wf_writeBytes _ hfont Memory.wf_reset)
  case pc => exact (by decide : (0x200 : Word).toNat ≤ 0x10FE)
  case stack => exact absurd hk (Nat.not_lt_zero _)
  case faulted => rfl

/-- Settles O27: `State.reset` is one of the resets. -/
theorem invariantHoldsAtReset : Obligations.InvariantHoldsAtReset := by
  rw [Obligations.InvariantHoldsAtReset, State.reset_eq_resetWith]
  exact invariantHoldsAfterEveryReset [] defaultFont

/-! ### The invariant, clause by clause, over an instruction that does not fault -/

section
variable {i : Instr} {s t : State}

/-- The two instructions that write memory write a block that their range check lets pass. -/
theorem wf_mem_of_exec (hs : s.mem.wf = true) (hf : faultOf i s = none) (h : exec i s = .next t) : t.mem.wf = true := by
  cases i with
  | opFX33 x =>
    obtain ⟨hrange, rfl⟩ := eq_of_exec_opFX33 hf h
    exact Memory.wf_writeBytes _ (by rw [length_bcdDigits]; omega) hs
  | opFX55 x =>
    obtain ⟨hrange, rfl⟩ := eq_of_exec_opFX55 hf h
    exact Memory.wf_writeBytes _ (by rw [length_regsUpTo]; omega) hs
  | _ => rwa [(Frame.of_exec h).mem (by simp) (by simp)]

/-- From an address an instruction is fetched from, `pc` reaches at most 0xFFE + 4 past a skip, 0xFFE + 2 past a return, and
0xFFF + 0xFF by a jump (10_state R15). -/
theorem pc_le_of_exec (hpc : s.pc.toNat ≤ 0xFFE) (hstack : s.StackInRange) (hf : faultOf i s = none) (h : exec i s = .next t) :
    t.pc.toNat ≤ 0x10FE := by
  obtain ⟨hadvances, hskips⟩ := pcAdvancesByTwoOrSkips i s t hf h
  cases hclass : pcEffect i with
  | advances => rw [hadvances hclass]; bv_omega
  | skips => obtain hpc' | hpc' := hskips hclass <;> rw [hpc'] <;> bv_omega
  | redirects =>
    cases i with
    | op00EE =>
      obtain ⟨k, hk, rfl⟩ := eq_of_exec_op00EE hf h
      have hslot := hstack k (by omega)
      rw [State.setPc_pc]
      bv_omega
    | op1NNN nnn =>
      cases (exec_op1NNN nnn s).symm.trans h
      rw [State.setPc_pc, toNat_zextAddr]
      omega
    | op2NNN nnn =>
      obtain ⟨hlt, rfl⟩ := eq_of_exec_op2NNN hf h
      rw [State.setPc_pc, toNat_zextAddr]
      omega
    | opBNNN nnn =>
      obtain ⟨u, hu, -, hsum⟩ := jumpWithOffsetAddsV0 s nnn
      cases hu.symm.trans h
      omega
    | _ => cases hclass

/-- A call stores the address it was fetched from in the slot above those in use; a return uses one slot fewer (10_state R16). -/
theorem stackInRange_of_exec (hpc : s.pc.toNat ≤ 0xFFE) (hstack : s.StackInRange) (hf : faultOf i s = none)
    (h : exec i s = .next t) : t.StackInRange := by
  intro k hk
  cases i with
  | op00EE =>
    obtain ⟨j, hj, rfl⟩ := eq_of_exec_op00EE hf h
    have hlt : k.val < j.val := hk
    exact hstack k (by omega)
  | op2NNN nnn =>
    obtain ⟨u, hu, -, -, hsp, hslots⟩ := callPushesItsOwnAddress s nnn (eq_of_exec_op2NNN hf h).1
    cases hu.symm.trans h
    rw [hslots k]
    split
    · exact hpc
    · exact hstack k (by omega)
  | _ =>
    rw [(Frame.of_exec h).sp (by simp) (by simp)] at hk
    rw [(Frame.of_exec h).stack (by simp)]
    exact hstack k hk

end

/-- No condition of the table of causes looks at the latches. -/
theorem faultOf_sampleKeys (i : Instr) (s : State) : faultOf i s.sampleKeys = faultOf i s := by
  cases i <;> rfl

/-- Settles O29: a path of the tick without an instruction leaves what the clauses speak of but for `pc` past an unknown encoding, and a
fault is latched by a running core alone. -/
theorem everyStepKeepsTheInvariant : Obligations.EveryStepKeepsTheInvariant := by
  intro s t ⟨hmem, hpc, hstack, hfaulted⟩ hstep
  obtain ⟨-, h⟩ | ⟨hfault, -, h⟩ | ⟨⟨-, hwait⟩, -, h⟩ | ⟨⟨hfault, -⟩, hle, -, h⟩ | ⟨i, c, a, ⟨-, hwait⟩, -, -, -, -, h⟩ |
    ⟨i, u, -, hle, -, hf, he, hu, h⟩ := step_cases s
  all_goals cases h.symm.trans hstep
  · exact ⟨hmem, hpc, hstack, hfaulted⟩
  · rw [State.waitCheck_frame]
    exact ⟨hmem, hpc, hstack, fun hsome => by simp [hfault] at hsome⟩
  · exact ⟨hmem, hpc, hstack, fun _ => hwait⟩
  · refine ⟨hmem, ?_, hstack, fun hsome => by simp [hfault] at hsome⟩
    have hadvance : (s.pc + 2).toNat ≤ 0x10FE := by bv_omega
    exact hadvance
  · exact ⟨hmem, hpc, hstack, fun _ => hwait⟩
  · rw [← faultOf_sampleKeys] at hf
    have hmem' : u.mem.wf = true := wf_mem_of_exec (s := s.sampleKeys) hmem hf he
    have hpc' : u.pc.toNat ≤ 0x10FE := pc_le_of_exec (s := s.sampleKeys) hle hstack hf he
    have hstack' : u.StackInRange := stackInRange_of_exec (s := s.sampleKeys) hle hstack hf he
    exact ⟨hmem', hpc', hstack', fun hsome => by simp [hu] at hsome⟩

end Sys2Proof.Machine
